-- ==== Sys2Proof/Word.lean ====
section
/-! DEFINITION. The machine's words: the 32-bit instruction and bus word, the byte, and the names of
the two register files. -/

namespace Sys2Proof

/-- One 32-bit word: an instruction (30_encoding.md R68) or a word on the host bus (20_memory.md R52). -/
abbrev Word := BitVec 32

/-- One byte of DMEM (20_memory.md R49). -/
abbrev Byte := BitVec 8

/-- The number of a BigInt register, B0 to B15 (30_encoding.md R70). -/
abbrev BReg := Fin 16

/-- The number of a point register, P0 to P7 (30_encoding.md R71). -/
abbrev PReg := Fin 8

end Sys2Proof
end

