-- ==== Sys2Proof/Syntax.lean ====
section
/-! DEFINITION. The instructions of LCT-CORE as syntax: one constructor for each of the 42 rows of
30_encoding.md R74, with operands already taken out of their fields (R70 to R73). -/

namespace Sys2Proof

/-- The twelve branch conditions of BR (46_sequencer.md R128). -/
inductive Cond where
  | z | nz | n | nn | lt | ge | eq | ne | gt | le | t | nt
deriving DecidableEq, Repr

/-- The six curve constants LDC selects (46_sequencer.md R131). -/
inductive CurveConst where
  | p | a | b | n | gx | gy
deriving DecidableEq, Repr

/-- The instructions (30_encoding.md R74). `a`, `b`, `c`, `d` are the spec's field names; a `BReg` names a
BigInt register, a `PReg` a point register. -/
inductive Instr where
  -- 46_sequencer.md
  | nop
  | halt
  | jmp (target : BitVec 16)
  | br (cond : Cond) (target : BitVec 16)
  | mov (a b : BReg)
  | ldi (a : BReg) (imm : BitVec 16)
  | ldc (a : BReg) (sel : CurveConst)
  -- 40_bigint_arith.md
  | add (a b c : BReg)
  | sub (a b c : BReg)
  | mul (a b c : BReg)
  | div (a b c : BReg)
  | rem (a b c : BReg)
  | cmp (b c : BReg)
  -- 41_bigint_bitops.md
  | shl (a b : BReg) (imm : BitVec 16)
  | shr (a b : BReg) (imm : BitVec 16)
  | bitlen (a b : BReg)
  | bit (b c : BReg)
  | biti (b : BReg) (imm : BitVec 16)
  -- 43_modular.md
  | mod (a b c : BReg)
  | modexp (a b c d : BReg)
  | modinv (a b c : BReg)
  -- 42_bigint_conversion.md
  | ldbe (a : BReg) (addr : BitVec 12) (len : BitVec 8)
  | ldle (a : BReg) (addr : BitVec 12) (len : BitVec 8)
  | stbe (a : BReg) (addr : BitVec 12) (len : BitVec 8)
  | stle (a : BReg) (addr : BitVec 12) (len : BitVec 8)
  | ldhex (a : BReg) (addr : BitVec 12) (len : BitVec 8)
  | sthex (a : BReg) (addr : BitVec 12) (len : BitVec 8)
  | lddec (a : BReg) (addr : BitVec 12) (len : BitVec 8)
  | stdec (a : BReg) (addr : BitVec 12) (len : BitVec 8)
  -- 44_ec_point.md
  | pinf (a : PReg)
  | pgen (a : PReg)
  | pmk (a : PReg) (b c : BReg)
  | px (a : BReg) (b : PReg)
  | py (a : BReg) (b : PReg)
  | pisinf (b : PReg)
  | padd (a b c : PReg)
  | pdbl (a b : PReg)
  | pmul (a : PReg) (b : BReg) (c : PReg)
  -- 45_ecdsa.md
  | digz (a : BReg) (addr : BitVec 12) (len : BitVec 8)
  | sign (a b c : BReg) (lows : Bool)
  | verify (a : PReg) (b c : BReg)
  | recover (a : PReg) (b c : BReg)
deriving DecidableEq, Repr

end Sys2Proof
end

