-- ==== Sys2Proof/WellFormed.lean ====
section
/-! DEFINITION. Which instructions of the syntax the encoding has: the register groups of SIGN, VERIFY
and RECOVER end at B15 (30_encoding.md R73, R76). Every other operand's range is in its type. -/

namespace Sys2Proof

/-- A group of `k` registers that begins at `r` does not pass B15 (30_encoding.md R73). -/
def groupFits (r : BReg) (k : Nat) : Bool := decide (r.val + k ≤ 16)

/-- 30_encoding.md R73 and R76: SIGN needs a ≤ 13, VERIFY b ≤ 14, RECOVER b ≤ 13. -/
def Instr.wellFormed : Instr → Bool
  | .sign a _ _ _  => groupFits a 3
  | .verify _ b _  => groupFits b 2
  | .recover _ b _ => groupFits b 3
  | .nop | .halt | .jmp .. | .br .. | .mov .. | .ldi .. | .ldc .. => true
  | .add .. | .sub .. | .mul .. | .div .. | .rem .. | .cmp .. => true
  | .shl .. | .shr .. | .bitlen .. | .bit .. | .biti .. => true
  | .mod .. | .modexp .. | .modinv .. => true
  | .ldbe .. | .ldle .. | .stbe .. | .stle .. => true
  | .ldhex .. | .sthex .. | .lddec .. | .stdec .. => true
  | .pinf .. | .pgen .. | .pmk .. | .px .. | .py .. => true
  | .pisinf .. | .padd .. | .pdbl .. | .pmul .. | .digz .. => true

end Sys2Proof
end

