-- ==== Sys2Proof/Decode.lean ====
section
/-! DEFINITION. Decoding, total on every 32-bit word and rejecting by name (30_encoding.md R74 to R76),
and after it the encoder, written from the formats of R69 and the opcodes of R74. -/

namespace Sys2Proof

/-! ## The fields of a word (R69) -/

/-- op, bits 31:24 in every format. -/
def opField (w : Word) : BitVec 8 := w.extractLsb' 24 8
/-- The a field, bits 23:20, as a BigInt register (R70). -/
def fieldA (w : Word) : BReg := (w.extractLsb' 20 4).toFin
/-- The b field, bits 19:16, as a BigInt register (R70). -/
def fieldB (w : Word) : BReg := (w.extractLsb' 16 4).toFin
/-- The c field, bits 15:12, as a BigInt register (R70). -/
def fieldC (w : Word) : BReg := (w.extractLsb' 12 4).toFin
/-- The d field, bits 11:8, as a BigInt register (R70). -/
def fieldD (w : Word) : BReg := (w.extractLsb' 8 4).toFin
/-- The a field as a point register: bits 22:20; bit 23 is a must-be-zero bit (R71). -/
def fieldPA (w : Word) : PReg := (w.extractLsb' 20 3).toFin
/-- The b field as a point register: bits 18:16; bit 19 is a must-be-zero bit (R71). -/
def fieldPB (w : Word) : PReg := (w.extractLsb' 16 3).toFin
/-- The c field as a point register: bits 14:12; bit 15 is a must-be-zero bit (R71). -/
def fieldPC (w : Word) : PReg := (w.extractLsb' 12 3).toFin
/-- imm16 and target16, bits 15:0. -/
def fieldImm (w : Word) : BitVec 16 := w.extractLsb' 0 16
/-- addr12, bits 19:8. -/
def fieldAddr (w : Word) : BitVec 12 := w.extractLsb' 8 12
/-- len8, bits 7:0. -/
def fieldLen (w : Word) : BitVec 8 := w.extractLsb' 0 8
/-- f[0], SIGN's LOWS bit (R72). -/
def fieldLows (w : Word) : Bool := w.getLsbD 0

/-- The condition a cond field names; 12 to 15 name none (46_sequencer.md R128, R76). -/
def condOf? (c : BitVec 4) : Option Cond :=
  match c.toNat with
  | 0 => some .z  | 1 => some .nz | 2 => some .n   | 3 => some .nn
  | 4 => some .lt | 5 => some .ge | 6 => some .eq  | 7 => some .ne
  | 8 => some .gt | 9 => some .le | 10 => some .t  | 11 => some .nt
  | _ => none

/-- The constant an LDC selector names; above 5 it names none (46_sequencer.md R131, R76). -/
def curveConstOf? (s : BitVec 16) : Option CurveConst :=
  match s.toNat with
  | 0 => some .p | 1 => some .a | 2 => some .b | 3 => some .n | 4 => some .gx | 5 => some .gy
  | _ => none

/-- An instruction whose register group passes B15 is none (R73, R76). -/
def onlyWellFormed (i : Instr) : Option Instr := if i.wellFormed then some i else none

/-! ## The opcode map (R74) -/

/-- One row of R74: its mask, its match, and the instruction of a word that matches, `none` where the
row's constraint does not hold. -/
structure OpcodeRow where
  mask    : Word
  pattern : Word
  instr   : Word → Option Instr

/-- The rows of 46_sequencer.md's instructions. -/
def sequencerRows : List OpcodeRow :=
  [ ⟨0xFFFFFFFF, 0x00000000, fun _ => some .nop⟩,
    ⟨0xFFFFFFFF, 0x01000000, fun _ => some .halt⟩,
    ⟨0xFFFF0000, 0x02000000, fun w => some (.jmp (fieldImm w))⟩,
    ⟨0xFF0F0000, 0x03000000,
      fun w => (condOf? (w.extractLsb' 20 4)).map fun k => .br k (fieldImm w)⟩,
    ⟨0xFF00FFFF, 0x10000000, fun w => some (.mov (fieldA w) (fieldB w))⟩,
    ⟨0xFF0F0000, 0x11000000, fun w => some (.ldi (fieldA w) (fieldImm w))⟩,
    ⟨0xFF0F0000, 0x12000000, fun w => (curveConstOf? (fieldImm w)).map fun k => .ldc (fieldA w) k⟩ ]

/-- The rows of 40_bigint_arith.md's and 41_bigint_bitops.md's instructions. -/
def bigIntRows : List OpcodeRow :=
  [ ⟨0xFF000FFF, 0x20000000, fun w => some (.add (fieldA w) (fieldB w) (fieldC w))⟩,
    ⟨0xFF000FFF, 0x21000000, fun w => some (.sub (fieldA w) (fieldB w) (fieldC w))⟩,
    ⟨0xFF000FFF, 0x22000000, fun w => some (.mul (fieldA w) (fieldB w) (fieldC w))⟩,
    ⟨0xFF000FFF, 0x23000000, fun w => some (.div (fieldA w) (fieldB w) (fieldC w))⟩,
    ⟨0xFF000FFF, 0x24000000, fun w => some (.rem (fieldA w) (fieldB w) (fieldC w))⟩,
    ⟨0xFFF00FFF, 0x25000000, fun w => some (.cmp (fieldB w) (fieldC w))⟩,
    ⟨0xFF000000, 0x28000000, fun w => some (.shl (fieldA w) (fieldB w) (fieldImm w))⟩,
    ⟨0xFF000000, 0x29000000, fun w => some (.shr (fieldA w) (fieldB w) (fieldImm w))⟩,
    ⟨0xFF00FFFF, 0x2A000000, fun w => some (.bitlen (fieldA w) (fieldB w))⟩,
    ⟨0xFFF00FFF, 0x2B000000, fun w => some (.bit (fieldB w) (fieldC w))⟩,
    ⟨0xFFF00000, 0x2C000000, fun w => some (.biti (fieldB w) (fieldImm w))⟩ ]

/-- The rows of 43_modular.md's and 42_bigint_conversion.md's instructions. -/
def modularAndConversionRows : List OpcodeRow :=
  [ ⟨0xFF000FFF, 0x30000000, fun w => some (.mod (fieldA w) (fieldB w) (fieldC w))⟩,
    ⟨0xFF0000FF, 0x31000000, fun w => some (.modexp (fieldA w) (fieldB w) (fieldC w) (fieldD w))⟩,
    ⟨0xFF000FFF, 0x32000000, fun w => some (.modinv (fieldA w) (fieldB w) (fieldC w))⟩,
    ⟨0xFF000000, 0x40000000, fun w => some (.ldbe (fieldA w) (fieldAddr w) (fieldLen w))⟩,
    ⟨0xFF000000, 0x41000000, fun w => some (.ldle (fieldA w) (fieldAddr w) (fieldLen w))⟩,
    ⟨0xFF000000, 0x42000000, fun w => some (.stbe (fieldA w) (fieldAddr w) (fieldLen w))⟩,
    ⟨0xFF000000, 0x43000000, fun w => some (.stle (fieldA w) (fieldAddr w) (fieldLen w))⟩,
    ⟨0xFF000000, 0x44000000, fun w => some (.ldhex (fieldA w) (fieldAddr w) (fieldLen w))⟩,
    ⟨0xFF000000, 0x45000000, fun w => some (.sthex (fieldA w) (fieldAddr w) (fieldLen w))⟩,
    ⟨0xFF000000, 0x46000000, fun w => some (.lddec (fieldA w) (fieldAddr w) (fieldLen w))⟩,
    ⟨0xFF000000, 0x47000000, fun w => some (.stdec (fieldA w) (fieldAddr w) (fieldLen w))⟩ ]

/-- The rows of 44_ec_point.md's and 45_ecdsa.md's instructions. -/
def pointAndEcdsaRows : List OpcodeRow :=
  [ ⟨0xFF8FFFFF, 0x50000000, fun w => some (.pinf (fieldPA w))⟩,
    ⟨0xFF8FFFFF, 0x51000000, fun w => some (.pgen (fieldPA w))⟩,
    ⟨0xFF800FFF, 0x52000000, fun w => some (.pmk (fieldPA w) (fieldB w) (fieldC w))⟩,
    ⟨0xFF08FFFF, 0x53000000, fun w => some (.px (fieldA w) (fieldPB w))⟩,
    ⟨0xFF08FFFF, 0x54000000, fun w => some (.py (fieldA w) (fieldPB w))⟩,
    ⟨0xFFF8FFFF, 0x55000000, fun w => some (.pisinf (fieldPB w))⟩,
    ⟨0xFF888FFF, 0x56000000, fun w => some (.padd (fieldPA w) (fieldPB w) (fieldPC w))⟩,
    ⟨0xFF88FFFF, 0x57000000, fun w => some (.pdbl (fieldPA w) (fieldPB w))⟩,
    ⟨0xFF808FFF, 0x58000000, fun w => some (.pmul (fieldPA w) (fieldB w) (fieldPC w))⟩,
    ⟨0xFF000000, 0x60000000, fun w => some (.digz (fieldA w) (fieldAddr w) (fieldLen w))⟩,
    ⟨0xFF000FFE, 0x61000000,
      fun w => onlyWellFormed (.sign (fieldA w) (fieldB w) (fieldC w) (fieldLows w))⟩,
    ⟨0xFF800FFF, 0x62000000,
      fun w => onlyWellFormed (.verify (fieldPA w) (fieldB w) (fieldC w))⟩,
    ⟨0xFF800FFF, 0x63000000,
      fun w => onlyWellFormed (.recover (fieldPA w) (fieldB w) (fieldC w))⟩ ]

/-- R74, all 42 rows. -/
def opcodeMap : List OpcodeRow :=
  sequencerRows ++ bigIntRows ++ modularAndConversionRows ++ pointAndEcdsaRows

/-! ## The decoder (R75) -/

/-- Why a word is no instruction (R76); each is an ILLEGAL_INSTRUCTION (log 14). -/
inductive DecodeError where
  /-- Its opcode byte is in no row of R74. -/
  | unknownOpcode
  /-- A must-be-zero bit of its row is 1. -/
  | mustBeZero
  /-- Its row's constraint (cond, selector, register group) does not hold. -/
  | constraint
deriving DecidableEq, Repr

/-- The row of R74 whose op is the word's. -/
def opcodeRow? (op : BitVec 8) : Option OpcodeRow :=
  opcodeMap.find? fun r => opField r.pattern == op

/-- R75: decoding, total on every 32-bit word. -/
def decode (w : Word) : Except DecodeError Instr :=
  match opcodeRow? (opField w) with
  | none => .error .unknownOpcode
  | some r =>
    if w &&& r.mask ≠ r.pattern then .error .mustBeZero
    else match r.instr w with
      | none => .error .constraint
      | some i => .ok i

/-- The instruction this decoder reads from an instruction of `nbits` bits with value `w`, bit 0 least
significant; IMEM holds whole words, so there is no byte order (20_memory.md R54). -/
def decodeTableWord (nbits w : Nat) : Option Instr :=
  match decode (BitVec.ofNat 32 (w % 2 ^ nbits)) with
  | .ok i => some i
  | .error _ => none

/-! ## The encoder (R69, R74) -/

/-- The cond field of a condition (46_sequencer.md R128). -/
def Cond.code : Cond → BitVec 4
  | .z => 0  | .nz => 1 | .n => 2  | .nn => 3 | .lt => 4 | .ge => 5
  | .eq => 6 | .ne => 7 | .gt => 8 | .le => 9 | .t => 10 | .nt => 11

/-- The selector of a curve constant (46_sequencer.md R131). -/
def CurveConst.code : CurveConst → BitVec 16
  | .p => 0 | .a => 1 | .b => 2 | .n => 3 | .gx => 4 | .gy => 5

/-- A BigInt register's field (R70). -/
def bField (r : BReg) : BitVec 4 := BitVec.ofNat 4 r.val

/-- A point register's field, its top bit 0 (R71). -/
def pField (r : PReg) : BitVec 4 := 0#1 ++ BitVec.ofNat 3 r.val

/-- The R format. -/
def rFormat (op : BitVec 8) (a b c d : BitVec 4) (f : BitVec 8) : Word := op ++ a ++ b ++ c ++ d ++ f
/-- The I format. -/
def iFormat (op : BitVec 8) (a b : BitVec 4) (imm : BitVec 16) : Word := op ++ a ++ b ++ imm
/-- The M format. -/
def mFormat (op : BitVec 8) (a : BitVec 4) (addr : BitVec 12) (len : BitVec 8) : Word :=
  op ++ a ++ addr ++ len
/-- The B format. -/
def bFormat (op : BitVec 8) (cond : BitVec 4) (target : BitVec 16) : Word :=
  op ++ cond ++ 0#4 ++ target

/-- The word of an instruction (R69, R74). -/
def encode : Instr → Word
  | .nop           => rFormat 0x00 0 0 0 0 0
  | .halt          => rFormat 0x01 0 0 0 0 0
  | .jmp t         => bFormat 0x02 0 t
  | .br k t        => bFormat 0x03 k.code t
  | .mov a b       => rFormat 0x10 (bField a) (bField b) 0 0 0
  | .ldi a i       => iFormat 0x11 (bField a) 0 i
  | .ldc a k       => iFormat 0x12 (bField a) 0 k.code
  | .add a b c     => rFormat 0x20 (bField a) (bField b) (bField c) 0 0
  | .sub a b c     => rFormat 0x21 (bField a) (bField b) (bField c) 0 0
  | .mul a b c     => rFormat 0x22 (bField a) (bField b) (bField c) 0 0
  | .div a b c     => rFormat 0x23 (bField a) (bField b) (bField c) 0 0
  | .rem a b c     => rFormat 0x24 (bField a) (bField b) (bField c) 0 0
  | .cmp b c       => rFormat 0x25 0 (bField b) (bField c) 0 0
  | .shl a b i     => iFormat 0x28 (bField a) (bField b) i
  | .shr a b i     => iFormat 0x29 (bField a) (bField b) i
  | .bitlen a b    => rFormat 0x2A (bField a) (bField b) 0 0 0
  | .bit b c       => rFormat 0x2B 0 (bField b) (bField c) 0 0
  | .biti b i      => iFormat 0x2C 0 (bField b) i
  | .mod a b c     => rFormat 0x30 (bField a) (bField b) (bField c) 0 0
  | .modexp a b c d => rFormat 0x31 (bField a) (bField b) (bField c) (bField d) 0
  | .modinv a b c  => rFormat 0x32 (bField a) (bField b) (bField c) 0 0
  | .ldbe a m l    => mFormat 0x40 (bField a) m l
  | .ldle a m l    => mFormat 0x41 (bField a) m l
  | .stbe a m l    => mFormat 0x42 (bField a) m l
  | .stle a m l    => mFormat 0x43 (bField a) m l
  | .ldhex a m l   => mFormat 0x44 (bField a) m l
  | .sthex a m l   => mFormat 0x45 (bField a) m l
  | .lddec a m l   => mFormat 0x46 (bField a) m l
  | .stdec a m l   => mFormat 0x47 (bField a) m l
  | .pinf a        => rFormat 0x50 (pField a) 0 0 0 0
  | .pgen a        => rFormat 0x51 (pField a) 0 0 0 0
  | .pmk a b c     => rFormat 0x52 (pField a) (bField b) (bField c) 0 0
  | .px a b        => rFormat 0x53 (bField a) (pField b) 0 0 0
  | .py a b        => rFormat 0x54 (bField a) (pField b) 0 0 0
  | .pisinf b      => rFormat 0x55 0 (pField b) 0 0 0
  | .padd a b c    => rFormat 0x56 (pField a) (pField b) (pField c) 0 0
  | .pdbl a b      => rFormat 0x57 (pField a) (pField b) 0 0 0
  | .pmul a b c    => rFormat 0x58 (pField a) (bField b) (pField c) 0 0
  | .digz a m l    => mFormat 0x60 (bField a) m l
  | .sign a b c l  => rFormat 0x61 (bField a) (bField b) (bField c) 0 (if l then 1 else 0)
  | .verify a b c  => rFormat 0x62 (pField a) (bField b) (bField c) 0 0
  | .recover a b c => rFormat 0x63 (pField a) (bField b) (bField c) 0 0

end Sys2Proof
end

