-- ==== Sys2Proof/Config.lean ====
section
/-! DEFINITION. What one build of LCT-CORE fixes (00_scope.md section 3, R9 to R13), the spec's default
build, and the free values: draws that no proof can see. -/

namespace Sys2Proof.Config

/-- The curve y² ≡ x³ + a·x + b (mod p) with base point (gx, gy) of prime order n (00_scope.md R13). -/
structure Curve where
  p  : Int
  a  : Int
  b  : Int
  n  : Int
  gx : Int
  gy : Int
deriving DecidableEq, Repr

/-- The build parameters (00_scope.md section 3). A model takes them as an argument; they are constants
of a build and no step changes them (10_state.md R21). DESIGN CHOICE (log 1), safe: State carries them. -/
structure Build where
  /-- R9: every BigInt register value v has |v| < 2^maxBits. -/
  maxBits   : Nat
  /-- R10: the internal digit width, visible in CONFIG0 only. -/
  digitBits : Nat
  /-- R12: IMEM's size in 32-bit words. -/
  imemWords : Nat
  /-- R12: DMEM's size in bytes. -/
  dmemBytes : Nat
  /-- R13: the one curve of the build. -/
  curve     : Curve
deriving DecidableEq, Repr

/-- secp256k1, the spec's default curve (00_scope.md R13, marked there as general knowledge, GK1).
PRESUMED (log 2), unsafe where a claim needs these very numbers. -/
def secp256k1 : Curve where
  p  := 0xFFFFFFFFFFFFFFFFFFFFFFFFFFFFFFFFFFFFFFFFFFFFFFFFFFFFFFFEFFFFFC2F
  a  := 0
  b  := 7
  n  := 0xFFFFFFFFFFFFFFFFFFFFFFFFFFFFFFFEBAAEDCE6AF48A03BBFD25E8CD0364141
  gx := 0x79BE667EF9DCBBAC55A06295CE870B07029BFCDB2DCE28D959F2815B16F81798
  gy := 0x483ADA7726A3C4655DA4FBFC0E1108A8FD17B448A68554199C47D08FFB10D4B8

/-- The default build: the defaults of 00_scope.md section 3. -/
def defaultBuild : Build where
  maxBits   := 512
  digitBits := 64
  imemWords := 1024
  dmemBytes := 4096
  curve     := secp256k1

/-- The draw a read of an unwritten DMEM byte gives (20_memory.md R50): the k-th draw of the machine's
life. A free value: it has no body, nothing can be proved of it (log 3), safe. -/
opaque drawByte : Nat → BitVec 8

/-- The draw a read of an unwritten IMEM word gives (20_memory.md R50), and the one a host read gives
where the spec leaves the value unspecified (R55; 10_state.md R39, R42, R43, R44). Free value (log 3), safe. -/
opaque drawWord : Nat → BitVec 32

/-- inv(a, m) where 00_scope.md R17 does not define it (m ≤ 0, or gcd ≠ 1). Free value (log 17), safe:
no build that meets R13 and no reachable state asks for it. -/
opaque noInverse : Int → Int → Int

end Sys2Proof.Config
end

