-- ==== Sys2Proof/Machine/Numeric.lean ====
section
/-! DEFINITION. The integer operators of 00_scope.md R16 and R17, the byte and string forms of
42_bigint_conversion.md, and the modular operators of 43_modular.md, as functions on numbers. Where the
spec leaves the algorithm free (92_eei_decisions.md D45) a fast one is used (log 16); Laws/Numeric.lean
proves that it gives the value the spec defines. -/

namespace Sys2Proof.Machine

/-- bitlen(v): the least L with v < 2^L (R16). -/
def bitlen (v : Nat) : Nat := if v = 0 then 0 else Nat.log2 v + 1

/-- bit(v, i) = floor(v / 2^i) mod 2; 0 for every i ≥ bitlen(v) (R16). -/
def bitOf (v i : Nat) : Bool := decide (i < bitlen v) && decide (v / 2 ^ i % 2 = 1)

/-- bytelen(v) = max(1, ceil(bitlen(v) / 8)) (R17). -/
def bytelen (v : Nat) : Nat := max 1 ((bitlen v + 7) / 8)

/-! ## Modular arithmetic -/

/-- Extended Euclid modulo m: from remainders r0, r1 that are t0·a and t1·a modulo m, the coefficient of the
last non-zero remainder. `fuel` bounds the divisions. Nat's own functions stand here in place of the
operators so that the kernel evaluates them at once. -/
def euclid (m : Nat) : Nat → Nat → Nat → Nat → Nat → Nat
  | 0, _, _, t0, _ => t0
  | fuel + 1, r0, r1, t0, t1 =>
    bif r1.beq 0 then t0
    else euclid m fuel r1 (r0.mod r1) t1 ((t0.add (m.sub (((r0.div r1).mul t1).mod m))).mod m)

/-- inv(a, m): the unique x in [0, m) with (a·x) mod m = 1 mod m, for m > 0 and gcd(a mod m, m) = 1
(R17). Elsewhere R17 gives no value: a free value (log 17). -/
def modInv (a m : Int) : Int :=
  if 0 < m ∧ Nat.gcd (a % m).toNat m.toNat = 1 then
    (euclid m.toNat (2 * bitlen m.toNat + 1) m.toNat (a % m).toNat 0 1 : Nat)
  else Config.noInverse a m

/-- One bit of square-and-multiply, the bit's value `bit`. -/
def powStep (x m : Nat) (bit : Bool) (q : Nat) : Nat :=
  if bit then q * q % m * x % m else q * q % m

/-- Square-and-multiply over the bits i−1 .. 0 of e. -/
def powLoop (x e m : Nat) : Nat → Nat → Nat
  | 0, q => q
  | i + 1, q => powLoop x e m i (powStep x m (bitOf e i) q)

/-- x^e mod m for m > 0 (43_modular.md R105). -/
def powMod (x e m : Nat) : Nat := powLoop x e m (bitlen e) (1 % m)

/-! ## Byte strings (42_bigint_conversion.md R95 to R98) -/

/-- The sum over j of s[j]·2^(8·(len−1−j)) (R95). -/
def beValue (s : List Byte) : Nat := s.foldl (fun v x => v * 256 + x.toNat) 0

/-- The sum over j of s[j]·2^(8·j) (R96). -/
def leValue (s : List Byte) : Nat := s.foldr (fun x v => x.toNat + v * 256) 0

/-- Byte j of the little-endian form: (x >> 8j) mod 256 (R98). -/
def byteOf (x j : Nat) : Byte := BitVec.ofNat 8 (x / 2 ^ (8 * j))

/-- The L bytes of x, most significant first (R97). -/
def beBytes (L x : Nat) : List Byte := (List.range L).map fun j => byteOf x (L - 1 - j)

/-- The L bytes of x, least significant first (R98). -/
def leBytes (L x : Nat) : List Byte := (List.range L).map fun j => byteOf x j

/-! ## Strings (R93, R94) -/

/-- The two string bases. -/
inductive Radix where
  | hex | dec
deriving DecidableEq, Repr

/-- 16 or 10. -/
def Radix.base : Radix → Nat
  | .hex => 16
  | .dec => 10

/-- '-' (R93, R94). -/
def minusChar : Byte := 0x2D

/-- The value of a digit character (R93): '0' to '9' in both bases, 'A' to 'F' and 'a' to 'f' in hex. -/
def digitValue? (r : Radix) (c : Byte) : Option Nat :=
  if 0x30 ≤ c.toNat ∧ c.toNat ≤ 0x39 then some (c.toNat - 0x30)
  else match r with
    | .dec => none
    | .hex =>
      if 0x41 ≤ c.toNat ∧ c.toNat ≤ 0x46 then some (c.toNat - 0x41 + 10)
      else if 0x61 ≤ c.toNat ∧ c.toNat ≤ 0x66 then some (c.toNat - 0x61 + 10)
      else none

/-- The value of a string of digits continued from `acc`, most significant first; `none` if a character
is no digit. -/
def digitsFrom? (r : Radix) (acc : Nat) : List Byte → Option Nat
  | [] => some acc
  | c :: s =>
    match digitValue? r c with
    | none => none
    | some d => digitsFrom? r (acc * r.base + d) s

/-- The value of digit { digit }: at least one digit (R93). -/
def digits? (r : Radix) (s : List Byte) : Option Nat :=
  match s with
  | [] => none
  | _ :: _ => digitsFrom? r 0 s

/-- The integer a string denotes, `none` where it is not of the grammar [ '-' ] digit { digit } (R93). -/
def parse? (r : Radix) (s : List Byte) : Option Int :=
  match s with
  | [] => none
  | c :: t =>
    if c = minusChar then (digits? r t).map fun m => -(m : Int)
    else (digits? r s).map fun m => (m : Int)

/-- The character of a digit below 16: '0' to '9', 'a' to 'f' (R94). -/
def digitChar (d : Nat) : Byte := if d < 10 then BitVec.ofNat 8 (0x30 + d) else BitVec.ofNat 8 (0x57 + d)

/-- The digits of v in base B, most significant first, before `acc`; `fuel` bounds their number. -/
def digitsOf (B : Nat) : Nat → Nat → List Nat → List Nat
  | 0, _, acc => acc
  | fuel + 1, v, acc => if v = 0 then acc else digitsOf B fuel (v / B) (v % B :: acc)

/-- The digits of v without leading zeros; the single digit 0 for 0 (R94). -/
def canonicalDigits (B v : Nat) : List Nat := if v = 0 then [0] else digitsOf B (bitlen v) v []

/-- The canonical string of an integer (R94). -/
def canonicalString (r : Radix) (x : Int) : List Byte :=
  (if x < 0 then [minusChar] else []) ++ (canonicalDigits r.base x.natAbs).map digitChar

end Sys2Proof.Machine
end

