-- ==== Sys2Proof/Machine/State.lean ====
section
/-! DEFINITION. The state of LCT-CORE as plain data: one field for each item of 10_state.md R21, then the
model's own fields; its reset value (70_reset_and_hazards.md R152); and the reasons a step can stop. -/

namespace Sys2Proof.Machine

/-- A point register's value: INF or an affine pair of integers (10_state.md R25). -/
inductive Point where
  | inf
  | affine (x y : Int)
deriving DecidableEq, Repr

/-- FLAGS (10_state.md R27). -/
structure Flags where
  z  : Bool
  n  : Bool
  lt : Bool
  eq : Bool
  gt : Bool
  t  : Bool
deriving DecidableEq, Repr

/-- The operands of a SIGN that holds in NONCE_WAIT (45_ecdsa.md R121); the instruction is not fetched
again when the nonce comes. DEDUCED (log 9). -/
structure SignOperands where
  a    : BReg
  b    : BReg
  c    : BReg
  lows : Bool
deriving DecidableEq, Repr

/-- RUNSTATE (10_state.md R30). -/
inductive RunState where
  /-- The engine executes nothing. -/
  | idle
  /-- The engine fetches and executes the instruction at PC. -/
  | run
  /-- The engine executes a SIGN and holds until the host supplies a nonce. -/
  | nonceWait (held : SignOperands)
deriving DecidableEq, Repr

/-- The width of a host access; the interface has the 32-bit word only (20_memory.md R52). -/
inductive AccessWidth where
  | byte | halfword | word
deriving DecidableEq, Repr

/-- One turn of the schedule: which agent moves next, and what it does. Host accesses name an offset in
the 18-bit host space (20_memory.md R51). DESIGN CHOICE (log 6), safe: every interleaving is a list. -/
inductive Turn where
  /-- The engine takes one step. -/
  | engine
  /-- The host reads. -/
  | read (offset : BitVec 18) (width : AccessWidth)
  /-- The host writes. -/
  | write (offset : BitVec 18) (width : AccessWidth) (data : Word)
  /-- The reset input is asserted (70_reset_and_hazards.md R151). -/
  | assertReset
  /-- The reset input is released. -/
  | releaseReset
deriving DecidableEq, Repr

/-- The machine. -/
structure State where
  /-- The build's constants, the model's argument (log 1); no step changes them. -/
  build      : Config.Build
  /-- B0 to B15 (R22); the value of a register whose valid bit is 0 is never read (R23, log 4). -/
  b          : Vector Int 16
  /-- VB (R22). -/
  vb         : Vector Bool 16
  /-- P0 to P7 (R25); log 5. -/
  p          : Vector Point 8
  /-- VP (R25). -/
  vp         : Vector Bool 8
  /-- FLAGS (R27). -/
  flags      : Flags
  /-- PC (R29). -/
  pc         : BitVec 16
  /-- RUNSTATE (R30). -/
  runState   : RunState
  /-- STATUS.DONE (R36). -/
  done       : Bool
  /-- STATUS.ERR (R36). -/
  err        : Bool
  /-- STATUS.HWERR (R36). -/
  hwErr      : Bool
  /-- ERRCODE[7:0] (R40). -/
  errCode    : BitVec 8
  /-- ERRPC[15:0] (R41). -/
  errPc      : BitVec 16
  /-- START_PC[15:0] (R38). -/
  startPc    : BitVec 16
  /-- IRQ_EN[2:0]: DONE_IE, ERR_IE, NONCE_IE from bit 0 (R37). -/
  irqEn      : BitVec 3
  /-- SLEN[15:0] (R43). -/
  slen       : BitVec 16
  /-- NONCE_W[0..7] (R45). -/
  nonceW     : Vector Word 8
  /-- NONCE_CTRL.NONCE_VALID (R46). -/
  nonceValid : Bool
  /-- The IMEM words written since power-on, by index (20_memory.md R48, R50; log 13). -/
  imem       : List (Nat × Word)
  /-- The DMEM bytes written since power-on, by address (20_memory.md R49, R50; log 13). -/
  dmem       : List Host.Cell
  /-- Model's own: the reset input is held asserted (log 12). -/
  resetLine  : Bool
  /-- Model's own: the turns to come, oldest first (log 6). -/
  inputs     : List Turn
  /-- Model's own: what host reads returned, newest first (log 7). -/
  reads      : List Word
  /-- Model's own: the index of the next draw (log 3). -/
  draws      : Nat
deriving DecidableEq, Repr

/-- The state right after power-on and reset of a given build (70_reset_and_hazards.md R152). The contents
of the invalid registers, `draws`, `inputs` and `reads` are the model's choices (logs 3 to 7). -/
def State.powerOn (build : Config.Build) : State where
  build      := build
  b          := Vector.replicate 16 0
  vb         := Vector.replicate 16 false
  p          := Vector.replicate 8 .inf
  vp         := Vector.replicate 8 false
  flags      := ⟨false, false, false, false, false, false⟩
  pc         := 0
  runState   := .idle
  done       := false
  err        := false
  hwErr      := false
  errCode    := 0
  errPc      := 0
  startPc    := 0
  irqEn      := 0
  slen       := 0
  nonceW     := Vector.replicate 8 0
  nonceValid := false
  imem       := []
  dmem       := []
  resetLine  := false
  inputs     := []
  reads      := []
  draws      := 0

/-- The state right after power-on and reset of the default build (70_reset_and_hazards.md R152). -/
def State.reset : State := State.powerOn Config.defaultBuild

/-- There is no stop of this kind: every error of LCT-CORE is a change of state (60_exceptions.md R134),
and an access outside a memory is MEM_RANGE, PC_RANGE or an unmapped offset (20_memory.md R51, R56). -/
inductive Fault where
deriving DecidableEq, Repr

/-- Why the model gives a step no meaning. -/
inductive Refusal where
  /-- Raised by `exec` for an instruction with no meaning yet; safe. No arm is left that raises it. -/
  | notModelled (mnemonic : String)
  /-- Raised by a host access that is not of a 32-bit word at a multiple of 4, "outside the interface.
  A model refuses it" (20_memory.md R52, 93_implementation_defined.md U9); safe. -/
  | hostAccessOutsideInterface
deriving DecidableEq, Repr

/-- What a step of this machine answers. -/
abbrev Answer := Host.Outcome State Fault Refusal

end Sys2Proof.Machine
end

