-- ==== Sys2Proof/Machine/Ops.lean ====
section
/-! DEFINITION. The named operations over registers and memory (00_scope.md R18), taking an error
(60_exceptions.md R134) and going on after one (START, R137, R140), and fetching (20_memory.md R56). -/

namespace Sys2Proof.Machine

/-! ## Errors -/

/-- The errors an instruction, a fetch or an ABORT raises (60_exceptions.md R132). -/
inductive EngineError where
  | illegalInstruction | pcRange | uninitOperand | memRange | regOverflow | bufOverflow
  | negativeOperand | badModulus | pointAtInfinity | keyRange | nonceRange | aborted
  | parseError | divisionByZero | noInverse | curveMembership
  | invalidSignatureRange | invalidRecoveryId | recoveryMismatch
deriving DecidableEq, Repr

/-- The code written to ERRCODE (60_exceptions.md R132). -/
def EngineError.code : EngineError → BitVec 8
  | .illegalInstruction    => 0x01
  | .pcRange               => 0x02
  | .uninitOperand         => 0x03
  | .memRange              => 0x04
  | .regOverflow           => 0x05
  | .bufOverflow           => 0x06
  | .negativeOperand       => 0x07
  | .badModulus            => 0x08
  | .pointAtInfinity       => 0x09
  | .keyRange              => 0x0A
  | .nonceRange            => 0x0B
  | .aborted               => 0x0C
  | .parseError            => 0x10
  | .divisionByZero        => 0x11
  | .noInverse             => 0x12
  | .curveMembership       => 0x13
  | .invalidSignatureRange => 0x14
  | .invalidRecoveryId     => 0x15
  | .recoveryMismatch      => 0x16

/-- The engine stops on error E at PC (60_exceptions.md R134; ABORT, R138): IDLE, ERR, ERRCODE, ERRPC;
PC and everything else stay. -/
def State.raise (e : EngineError) (s : State) : State :=
  { s with runState := .idle, err := true, errCode := e.code, errPc := s.pc }

/-- START while IDLE (60_exceptions.md R137): the only way execution goes on after an error (R140). -/
def State.start (s : State) : State :=
  { s with pc := s.startPc, done := false, err := false, errCode := 0, errPc := 0, runState := .run }

/-- What an instruction computes: its new state, or the first error its rule meets (R19, R135). -/
abbrev Result := Except EngineError

/-- The end of an instruction (00_scope.md R19): all its writes, or, if it raised, none of them and the
error entry from `s`. -/
def finish (s : State) (r : Result State) : Answer :=
  match r with
  | .ok t => .next t
  | .error e => .next (s.raise e)

/-- `raise e` unless `p` holds: one check of a rule. -/
def require (p : Bool) (e : EngineError) : Result Unit := if p then .ok () else .error e

/-! ## Plain updates -/

/-- Register i takes v and becomes valid, with no capacity check. -/
def State.setB (r : BReg) (v : Int) (s : State) : State :=
  { s with b := s.b.set r.val v r.isLt, vb := s.vb.set r.val true r.isLt }

/-- Point register i takes pt and becomes valid. -/
def State.setP (r : PReg) (pt : Point) (s : State) : State :=
  { s with p := s.p.set r.val pt r.isLt, vp := s.vp.set r.val true r.isLt }

/-- `pc <- target`. -/
def State.jump (target : BitVec 16) (s : State) : State := { s with pc := target }

/-- `pc <- pc + 1`. -/
def State.nextPc (s : State) : State := { s with pc := s.pc + 1 }

/-- HALT's effect (46_sequencer.md R126). -/
def State.stop (s : State) : State := { s with runState := .idle, done := true }

/-- `k` draws are used up (20_memory.md R50, log 3). -/
def State.useDraws (k : Nat) (s : State) : State := { s with draws := s.draws + k }

/-! ## Registers (00_scope.md R18) -/

/-- `B[i]`: UNINIT_OPERAND where VB[i] = 0 (10_state.md R23). -/
def State.readB (s : State) (r : BReg) : Result Int :=
  if s.vb[r] then .ok s.b[r] else .error .uninitOperand

/-- `P[i]`: UNINIT_OPERAND where VP[i] = 0 (10_state.md R25). -/
def State.readP (s : State) (r : PReg) : Result Point :=
  if s.vp[r] then .ok s.p[r] else .error .uninitOperand

/-- v fits a BigInt register: |v| < 2^MAX_BITS (00_scope.md R9). -/
def State.fits (s : State) (v : Int) : Bool := decide (v.natAbs < 2 ^ s.build.maxBits)

/-- `B[i] <- v`: REG_OVERFLOW where |v| ≥ 2^MAX_BITS. -/
def State.writeB (r : BReg) (v : Int) (s : State) : Result State :=
  if s.fits v then .ok (s.setB r v) else .error .regOverflow

/-! ## Memories: lists of written cells -/

/-- The value written at an address; `none` where nothing has been written since power-on. This is what
an unlisted address reads as: no value, so that the read is a draw (20_memory.md R50). -/
def Cells.read {α : Type} : List (Nat × α) → Nat → Option α
  | [], _ => none
  | (k, v) :: m, a => if k = a then some v else Cells.read m a

/-- A write at one address; the list stays in rising order. -/
def Cells.write {α : Type} : List (Nat × α) → Nat → α → List (Nat × α)
  | [], a, v => [(a, v)]
  | (k, w) :: m, a, v =>
    if a < k then (a, v) :: (k, w) :: m
    else if a = k then (a, v) :: m
    else (k, w) :: Cells.write m a v

/-- The list from address `lo` on is in canonical form: addresses strictly rising, each below `bound`. -/
def Cells.wfFrom {α : Type} (bound : Nat) : Nat → List (Nat × α) → Bool
  | _, [] => true
  | lo, (k, _) :: m => decide (lo ≤ k) && decide (k < bound) && Cells.wfFrom bound (k + 1) m

/-- A memory of `bound` cells is in its one canonical form. An unlisted cell has no value, so no listed
cell equals what an unlisted one reads as. -/
def Memory.wf {α : Type} (bound : Nat) (m : List (Nat × α)) : Bool := Cells.wfFrom bound 0 m

/-- Both memories of a state are in canonical form. -/
def State.memoriesWf (s : State) : Bool :=
  Memory.wf s.build.imemWords s.imem && Memory.wf s.build.dmemBytes s.dmem

/-- The byte a read gives at address a when its draw is the k-th (20_memory.md R50). -/
def State.dmemByte (s : State) (a k : Nat) : Byte :=
  (Cells.read s.dmem a).getD (Config.drawByte k)

/-- The n bytes a MemRead at `a` gives, in address order; byte j has the j-th draw from the counter. -/
def State.dmemBytes (s : State) (a n : Nat) : List Byte :=
  (List.range n).map fun j => s.dmemByte (a + j) (s.draws + j)

/-- An access of n bytes at `a` stays below DMEM_BYTES (00_scope.md R18). -/
def State.inDmem (s : State) (a n : Nat) : Bool := decide (a + n ≤ s.build.dmemBytes)

/-- MemRead followed by the rest of the instruction: MEM_RANGE and no access where the range check fails;
otherwise the rest runs with the bytes read and the draws used up. -/
def memReadThen (a n : Nat) (s : State) (rest : List Byte → State → Result State) : Answer :=
  if s.inDmem a n then finish (s.useDraws n) (rest (s.dmemBytes a n) (s.useDraws n))
  else finish s (.error .memRange)

/-- Bytes at rising addresses from `a`, with no range check. -/
def writeBytes (m : List Host.Cell) : Nat → List Byte → List Host.Cell
  | _, [] => m
  | a, x :: xs => writeBytes (Cells.write m a x) (a + 1) xs

/-- `MemWrite(a, L, bytes)`: MEM_RANGE where the range check fails. -/
def State.memWrite (a : Nat) (bytes : List Byte) (s : State) : Result State :=
  if s.inDmem a bytes.length then .ok { s with dmem := writeBytes s.dmem a bytes }
  else .error .memRange

/-- `SLEN <- L` (10_state.md R43). -/
def State.setSlen (L : Nat) (s : State) : State := { s with slen := BitVec.ofNat 16 L }

/-! ## The nonce port (10_state.md R45, R46) -/

/-- k = Σ NONCE_W[i]·2^(32·i) (R45). -/
def State.nonce (s : State) : Nat :=
  s.nonceW.toList.foldr (fun w k => w.toNat + k * 2 ^ 32) 0

/-- The consumption of a nonce (45_ecdsa.md R121). -/
def State.consumeNonce (s : State) : State :=
  { s with nonceValid := false, nonceW := Vector.replicate 8 0 }

/-- The engine enters NONCE_WAIT, PC at the SIGN (45_ecdsa.md R121). -/
def State.awaitNonce (held : SignOperands) (s : State) : State := { s with runState := .nonceWait held }

/-! ## Fetch (20_memory.md R56) -/

/-- The word at PC and the state after the fetch, `none` where PC ≥ IMEM_WORDS. The fetch of a word
nothing has written is a draw (R50). -/
def State.fetch (s : State) : Option (Word × State) :=
  if s.pc.toNat < s.build.imemWords then
    match Cells.read s.imem s.pc.toNat with
    | some w => some (w, s)
    | none => some (Config.drawWord s.draws, s.useDraws 1)
  else none

end Sys2Proof.Machine
end

