-- ==== Sys2Proof/Machine/Flags.lean ====
section
/-! DEFINITION. Every flag computation of LCT-CORE (10_state.md R27, R28) and the conditions BR tests
(46_sequencer.md R128). -/

namespace Sys2Proof.Machine

/-- setZN(v) (00_scope.md R18). -/
def State.setZN (v : Int) (s : State) : State :=
  { s with flags := { s.flags with z := decide (v = 0), n := decide (v < 0) } }

/-- FLAGS.T <- t (BIT, BITI, PISINF, VERIFY). -/
def State.setT (t : Bool) (s : State) : State := { s with flags := { s.flags with t := t } }

/-- CMP's three flags (40_bigint_arith.md R86). -/
def State.setOrder (x y : Int) (s : State) : State :=
  { s with flags := { s.flags with lt := decide (x < y), eq := decide (x = y), gt := decide (x > y) } }

/-- holds(cond, FLAGS) (46_sequencer.md R128). -/
def Flags.holds (f : Flags) : Cond → Bool
  | .z  => f.z  | .nz => !f.z
  | .n  => f.n  | .nn => !f.n
  | .lt => f.lt | .ge => !f.lt
  | .eq => f.eq | .ne => !f.eq
  | .gt => f.gt | .le => !f.gt
  | .t  => f.t  | .nt => !f.t

/-- FLAGS as the six bits the FLAGS CSR mirrors (10_state.md R42). -/
def Flags.bits (f : Flags) : BitVec 6 :=
  BitVec.ofBool f.t ++ BitVec.ofBool f.gt ++ BitVec.ofBool f.eq ++ BitVec.ofBool f.lt ++
    BitVec.ofBool f.n ++ BitVec.ofBool f.z

/-- The end of every instruction of the ZN list (R28): `B[a] <- v`, setZN(v), `pc <- pc + 1`. -/
def State.result (a : BReg) (v : Int) (s : State) : Result State := do
  let t ← s.writeB a v
  pure (t.setZN v).nextPc

end Sys2Proof.Machine
end

