-- ==== Sys2Proof/Machine/Operands.lean ====
section
/-! DEFINITION. The operand forms of 30_encoding.md R70 to R73: registers, register groups, immediates,
DMEM operands, targets, and curve constants. -/

namespace Sys2Proof.Machine

/-- sext_16 of imm16 (LDI, R72; 00_scope.md R16). -/
def sextImm (imm : BitVec 16) : Int :=
  if imm.toNat < 2 ^ 15 then imm.toNat else (imm.toNat : Int) - 2 ^ 16

/-- zext of imm16: a shift amount or a bit index, not scaled (R72). -/
def zextImm (imm : BitVec 16) : Nat := imm.toNat

/-- EA = zext(addr12), with no base and no scaling (R72; 42_bigint_conversion.md R92). -/
def effectiveAddress (addr : BitVec 12) : Nat := addr.toNat

/-- zext(len8) (R72). -/
def byteCount (len : BitVec 8) : Nat := len.toNat

/-- JMP's and BR's target: absolute, in IMEM words (R72). -/
def branchTarget (target : BitVec 16) : BitVec 16 := target

/-- Register k of the group that begins at r (R73); R76 keeps every group below B16. -/
def groupReg (r : BReg) (k : Nat) : BReg := ⟨(r.val + k) % 16, Nat.mod_lt _ (by decide)⟩

/-- The constant a selector names (46_sequencer.md R131). -/
def curveConst (c : Config.Curve) : CurveConst → Int
  | .p => c.p | .a => c.a | .b => c.b | .n => c.n | .gx => c.gx | .gy => c.gy

/-- B[b], then B[c]: two BigInt sources in the order of every rule (60_exceptions.md R135). -/
def State.readB2 (s : State) (b c : BReg) : Result (Int × Int) := do
  let x ← s.readB b
  let y ← s.readB c
  pure (x, y)

/-- A source that must not be negative: NEGATIVE_OPERAND (41_bigint_bitops.md, D14). -/
def requireNonNeg (x : Int) : Result Unit := require (decide (0 ≤ x)) .negativeOperand

/-- A modulus (43_modular.md R103): DIVISION_BY_ZERO for 0, BAD_MODULUS below 0. -/
def requireModulus (m : Int) : Result Unit := do
  require (decide (m ≠ 0)) .divisionByZero
  require (decide (0 < m)) .badModulus

/-- The scalar range [1, n−1] of keys, nonces and signature halves (45_ecdsa.md R122 to R124). -/
def inScalarRange (c : Config.Curve) (k : Int) : Bool := decide (1 ≤ k ∧ k ≤ c.n - 1)

end Sys2Proof.Machine
end

