-- ==== Sys2Proof/Machine/Arith.lean ====
section
/-! DEFINITION. The BigInt adder/subtractor, multiplier, divider and comparator (40_bigint_arith.md R79 to
R86). Every value is an exact integer; the one bound is the register capacity, in `State.result`. -/

namespace Sys2Proof.Machine

/-- ADD (R81). -/
def execAdd (a b c : BReg) (s : State) : Answer :=
  finish s do
    let (x, y) ← s.readB2 b c
    s.result a (x + y)

/-- SUB (R82). -/
def execSub (a b c : BReg) (s : State) : Answer :=
  finish s do
    let (x, y) ← s.readB2 b c
    s.result a (x - y)

/-- MUL (R83). -/
def execMul (a b c : BReg) (s : State) : Answer :=
  finish s do
    let (x, y) ← s.readB2 b c
    s.result a (x * y)

/-- DIV (R84): the quotient rounded toward zero (R80). -/
def execDiv (a b c : BReg) (s : State) : Answer :=
  finish s do
    let (x, y) ← s.readB2 b c
    require (decide (y ≠ 0)) .divisionByZero
    s.result a (Int.tdiv x y)

/-- REM (R85): the remainder of the truncating division (R80). -/
def execRem (a b c : BReg) (s : State) : Answer :=
  finish s do
    let (x, y) ← s.readB2 b c
    require (decide (y ≠ 0)) .divisionByZero
    s.result a (Int.tmod x y)

/-- CMP (R86). -/
def execCmp (b c : BReg) (s : State) : Answer :=
  finish s do
    let (x, y) ← s.readB2 b c
    pure (s.setOrder x y).nextPc

end Sys2Proof.Machine
end

