-- ==== Sys2Proof/Machine/BitOps.lean ====
section
/-! DEFINITION. Shifts, bit length and bit extraction (41_bigint_bitops.md R87 to R91), on non-negative
operands only. -/

namespace Sys2Proof.Machine

/-- SHL (R87). -/
def execShl (a b : BReg) (imm : BitVec 16) (s : State) : Answer :=
  finish s do
    let x ← s.readB b
    requireNonNeg x
    s.result a (x * 2 ^ zextImm imm)

/-- SHR (R88). -/
def execShr (a b : BReg) (imm : BitVec 16) (s : State) : Answer :=
  finish s do
    let x ← s.readB b
    requireNonNeg x
    s.result a (x / 2 ^ zextImm imm)

/-- BITLEN (R89). -/
def execBitlen (a b : BReg) (s : State) : Answer :=
  finish s do
    let x ← s.readB b
    requireNonNeg x
    s.result a (bitlen x.toNat : Nat)

/-- BIT (R90). -/
def execBit (b c : BReg) (s : State) : Answer :=
  finish s do
    let (x, i) ← s.readB2 b c
    requireNonNeg x
    requireNonNeg i
    pure (s.setT (bitOf x.toNat i.toNat)).nextPc

/-- BITI (R91). -/
def execBiti (b : BReg) (imm : BitVec 16) (s : State) : Answer :=
  finish s do
    let x ← s.readB b
    requireNonNeg x
    pure (s.setT (bitOf x.toNat (zextImm imm))).nextPc

end Sys2Proof.Machine
end

