-- ==== Sys2Proof/Machine/Convert.lean ====
section
/-! DEFINITION. The loads and stores: base conversion between a register and DMEM (42_bigint_conversion.md
R92 to R102). -/

namespace Sys2Proof.Machine

/-- A string load (R99, R101): PARSE_ERROR where the string is not of the grammar of R93. -/
def loadString (r : Radix) (a : BReg) (addr : BitVec 12) (len : BitVec 8) (s : State) : Answer :=
  memReadThen (effectiveAddress addr) (byteCount len) s fun bytes t =>
    match parse? r bytes with
    | none => .error .parseError
    | some v => t.result a v

/-- The width of a byte store (R97): len8, or the minimal width where len8 = 0. That width has no bound of
255 bytes, which 20_memory.md R59 gives for every access: DESIGN CHOICE (log 28), unsafe. -/
def storeWidth (x : Nat) (len : BitVec 8) : Nat :=
  if byteCount len = 0 then bytelen x else byteCount len

/-- A byte store (R97, R98), the output's bytes given by `form L x`. -/
def storeInteger (form : Nat → Nat → List Byte) (a : BReg) (addr : BitVec 12) (len : BitVec 8)
    (s : State) : Answer :=
  finish s do
    let x ← s.readB a
    requireNonNeg x
    let width := storeWidth x.toNat len
    require (s.inDmem (effectiveAddress addr) width) .memRange
    require (decide (bytelen x.toNat ≤ width)) .bufOverflow
    let t ← s.memWrite (effectiveAddress addr) (form width x.toNat)
    pure (t.setSlen width).nextPc

/-- A string store (R100, R102): len8 is the buffer's capacity. -/
def storeString (r : Radix) (a : BReg) (addr : BitVec 12) (len : BitVec 8) (s : State) : Answer :=
  finish s do
    let x ← s.readB a
    require (s.inDmem (effectiveAddress addr) (byteCount len)) .memRange
    let str := canonicalString r x
    require (decide (str.length ≤ byteCount len)) .bufOverflow
    let t ← s.memWrite (effectiveAddress addr) str
    pure (t.setSlen str.length).nextPc

/-- LDBE (R95). -/
def execLdbe (a : BReg) (addr : BitVec 12) (len : BitVec 8) (s : State) : Answer :=
  memReadThen (effectiveAddress addr) (byteCount len) s fun bytes t =>
    t.result a (beValue bytes : Nat)

/-- LDLE (R96). -/
def execLdle (a : BReg) (addr : BitVec 12) (len : BitVec 8) (s : State) : Answer :=
  memReadThen (effectiveAddress addr) (byteCount len) s fun bytes t =>
    t.result a (leValue bytes : Nat)

/-- STBE (R97). -/
def execStbe (a : BReg) (addr : BitVec 12) (len : BitVec 8) (s : State) : Answer :=
  storeInteger beBytes a addr len s

/-- STLE (R98). -/
def execStle (a : BReg) (addr : BitVec 12) (len : BitVec 8) (s : State) : Answer :=
  storeInteger leBytes a addr len s

/-- LDHEX (R99). -/
def execLdhex (a : BReg) (addr : BitVec 12) (len : BitVec 8) (s : State) : Answer :=
  loadString .hex a addr len s

/-- STHEX (R100). -/
def execSthex (a : BReg) (addr : BitVec 12) (len : BitVec 8) (s : State) : Answer :=
  storeString .hex a addr len s

/-- LDDEC (R101). -/
def execLddec (a : BReg) (addr : BitVec 12) (len : BitVec 8) (s : State) : Answer :=
  loadString .dec a addr len s

/-- STDEC (R102). -/
def execStdec (a : BReg) (addr : BitVec 12) (len : BitVec 8) (s : State) : Answer :=
  storeString .dec a addr len s

end Sys2Proof.Machine
end

