-- ==== Sys2Proof/Machine/Curve.lean ====
section
/-! DEFINITION. The group law on the curve's points (44_ec_point.md R107 to R110) and the square root
RECOVER needs (45_ecdsa.md R124). -/

namespace Sys2Proof.Machine

open Sys2Proof.Config

/-- x³ + a·x + b, not reduced. -/
def Curve.rhs (c : Curve) (x : Int) : Int := x * x * x + c.a * x + c.b

/-- onCurve(x, y) (R107). -/
def onCurve (c : Curve) (x y : Int) : Bool :=
  decide (0 ≤ x ∧ x < c.p ∧ 0 ≤ y ∧ y < c.p ∧ (y * y - Curve.rhs c x) % c.p = 0)

/-- A point register's value may be this one: INF, or a pair on the curve (10_state.md R26). -/
def Point.member (c : Curve) : Point → Bool
  | .inf => true
  | .affine x y => onCurve c x y

/-- The third point of the line of slope `lam` through (x1, y1) with second abscissa x2, reflected. -/
def chordPoint (c : Curve) (lam x1 y1 x2 : Int) : Point :=
  let x3 := (lam * lam - x1 - x2) % c.p
  .affine x3 ((lam * (x1 - x3) - y1) % c.p)

/-- ecDbl (R108). -/
def ecDbl (c : Curve) : Point → Point
  | .inf => .inf
  | .affine x y =>
    if y = 0 then .inf
    else chordPoint c ((3 * x * x + c.a) * modInv (2 * y) c.p % c.p) x y x

/-- ecAdd (R109). -/
def ecAdd (c : Curve) : Point → Point → Point
  | .inf, q => q
  | .affine x1 y1, .inf => .affine x1 y1
  | .affine x1 y1, .affine x2 y2 =>
    if x1 = x2 then
      if (y1 + y2) % c.p = 0 then .inf else ecDbl c (.affine x1 y1)
    else chordPoint c ((y2 - y1) * modInv (x2 - x1) c.p % c.p) x1 y1 x2

/-- One bit of double-and-add (R110), the bit's value `bit`. -/
def ecMulStep (c : Curve) (pt : Point) (bit : Bool) (q : Point) : Point :=
  if bit then ecAdd c (ecDbl c q) pt else ecDbl c q

/-- Double-and-add over the bits i−1 .. 0 of k, most significant first (R110). -/
def ecMulLoop (c : Curve) (k : Nat) (pt : Point) : Nat → Point → Point
  | 0, q => q
  | i + 1, q => ecMulLoop c k pt i (ecMulStep c pt (bitOf k i) q)

/-- ecMul(k, P) for k ≥ 0 (R110). -/
def ecMul (c : Curve) (k : Nat) (pt : Point) : Point := ecMulLoop c k pt (bitlen k) .inf

/-- The base point G (R13). -/
def basePoint (c : Curve) : Point := .affine c.gx c.gy

/-- The y in [0, p) with y² ≡ alpha (mod p) and y mod 2 = parity, if there is one (45_ecdsa.md R124). The
method is alpha^((p+1)/4), for p ≡ 3 (mod 4) (93_implementation_defined.md GK4; log 16). -/
def rootOfParity? (c : Curve) (alpha parity : Int) : Option Int :=
  let y : Int := (powMod alpha.toNat ((c.p.toNat + 1) / 4) c.p.toNat : Nat)
  if y * y % c.p = alpha then
    if y % 2 = parity then some y
    else if y ≠ 0 ∧ (c.p - y) % 2 = parity then some (c.p - y)
    else none
  else none

end Sys2Proof.Machine
end

