-- ==== Sys2Proof/Machine/EcPoint.lean ====
section
/-! DEFINITION. The elliptic-curve point unit (44_ec_point.md R111 to R119). -/

namespace Sys2Proof.Machine

/-- The coordinates of a point, POINT_AT_INFINITY where it has none (R114, D23). -/
def coordinates : Point → Result (Int × Int)
  | .inf => .error .pointAtInfinity
  | .affine x y => .ok (x, y)

/-- PINF (R111). -/
def execPinf (a : PReg) (s : State) : Answer := .next (s.setP a .inf).nextPc

/-- PGEN (R112). -/
def execPgen (a : PReg) (s : State) : Answer := .next (s.setP a (basePoint s.build.curve)).nextPc

/-- PMK (R113). -/
def execPmk (a : PReg) (b c : BReg) (s : State) : Answer :=
  finish s do
    let (x, y) ← s.readB2 b c
    require (onCurve s.build.curve x y) .curveMembership
    pure (s.setP a (.affine x y)).nextPc

/-- PX (R114). -/
def execPx (a : BReg) (b : PReg) (s : State) : Answer :=
  finish s do
    let pt ← s.readP b
    let (x, _) ← coordinates pt
    s.result a x

/-- PY (R115). -/
def execPy (a : BReg) (b : PReg) (s : State) : Answer :=
  finish s do
    let pt ← s.readP b
    let (_, y) ← coordinates pt
    s.result a y

/-- PISINF (R116). -/
def execPisinf (b : PReg) (s : State) : Answer :=
  finish s do
    let pt ← s.readP b
    pure (s.setT (decide (pt = .inf))).nextPc

/-- PADD (R117). -/
def execPadd (a b c : PReg) (s : State) : Answer :=
  finish s do
    let p ← s.readP b
    let q ← s.readP c
    pure (s.setP a (ecAdd s.build.curve p q)).nextPc

/-- PDBL (R118). -/
def execPdbl (a b : PReg) (s : State) : Answer :=
  finish s do
    let p ← s.readP b
    pure (s.setP a (ecDbl s.build.curve p)).nextPc

/-- PMUL (R119). -/
def execPmul (a : PReg) (b : BReg) (c : PReg) (s : State) : Answer :=
  finish s do
    let k ← s.readB b
    let pt ← s.readP c
    requireNonNeg k
    pure (s.setP a (ecMul s.build.curve k.toNat pt)).nextPc

end Sys2Proof.Machine
end

