-- ==== Sys2Proof/Machine/Ecdsa.lean ====
section
/-! DEFINITION. The ECDSA unit (45_ecdsa.md R120 to R124). -/

namespace Sys2Proof.Machine

open Sys2Proof.Config

/-- The leftmost bitlen(n) bits of a big-endian string of `len` bytes with value e (R120). -/
def leftmostBits (c : Curve) (len e : Nat) : Nat :=
  if 8 * len > bitlen c.n.toNat then e / 2 ^ (8 * len - bitlen c.n.toNat) else e

/-- DIGZ (R120). -/
def execDigz (a : BReg) (addr : BitVec 12) (len : BitVec 8) (s : State) : Answer :=
  memReadThen (effectiveAddress addr) (byteCount len) s fun bytes t =>
    t.result a ((leftmostBits s.build.curve (byteCount len) (beValue bytes) : Nat) % s.build.curve.n)

/-- What one nonce makes of a signature (R122). -/
inductive SignAttempt where
  /-- R = INF, r = 0 or s = 0: another nonce is needed. -/
  | retry
  /-- The signature (r, s) and the recovery id v. -/
  | signed (r s v : Int)
deriving DecidableEq, Repr

/-- v = (R.y mod 2) + 2·[R.x ≥ n] (R122). -/
def recoveryId (c : Curve) (x y : Int) : Int := y % 2 + 2 * (if x ≥ c.n then 1 else 0)

/-- Low-s normalisation (R122): where LOWS is set and 2s > n, s becomes n − s and bit 0 of v flips. -/
def lowS (c : Curve) (lows : Bool) (r s v : Int) : SignAttempt :=
  if lows ∧ 2 * s > c.n then .signed r (c.n - s) (if v % 2 = 0 then v + 1 else v - 1)
  else .signed r s v

/-- The body of SIGN's loop for a nonce k in [1, n−1] (R122). -/
def signAttempt (c : Curve) (d z k : Int) (lows : Bool) : SignAttempt :=
  match ecMul c k.toNat (basePoint c) with
  | .inf => .retry
  | .affine x y =>
    let r := x % c.n
    if r = 0 then .retry
    else
      let s := modInv k c.n * (z + r * d) % c.n
      if s = 0 then .retry else lowS c lows r s (recoveryId c x y)

/-- `B[a] <- r; B[a+1] <- s; B[a+2] <- v; pc <- pc + 1` (R122); no flag changes. -/
def State.writeSignature (a : BReg) (r s v : Int) (st : State) : Result State := do
  let st ← st.writeB (groupReg a 0) r
  let st ← st.writeB (groupReg a 1) s
  let st ← st.writeB (groupReg a 2) v
  pure st.nextPc

/-- SIGN's operands (R122): the key d and z reduced mod n, with the checks made before any nonce is
acquired. A group past B15 is illegal (30_encoding.md R73, R76; log 15). -/
def signOperands (a b c : BReg) (s : State) : Result (Int × Int) := do
  require (groupFits a 3) .illegalInstruction
  let (d, z) ← s.readB2 b c
  require (inScalarRange s.build.curve d) .keyRange
  pure (d, z % s.build.curve.n)

/-- One nonce attempt, from the state after the consumption (R121, R122): an error keeps the consumption;
a retry finds NONCE_VALID = 0 and waits (log 8). -/
def signWith (held : SignOperands) (d z : Int) (k : Nat) (s : State) : Answer :=
  if inScalarRange s.build.curve k then
    match signAttempt s.build.curve d z k held.lows with
    | .retry => .next (s.awaitNonce held)
    | .signed r sg v => finish s (s.writeSignature held.a r sg v)
  else finish s (.error .nonceRange)

/-- SIGN (R122) with its nonce acquisition (R121): it holds in NONCE_WAIT where NONCE_VALID = 0, else it
consumes the nonce and makes one attempt. -/
def execSign (a b c : BReg) (lows : Bool) (s : State) : Answer :=
  match signOperands a b c s with
  | .error e => .next (s.raise e)
  | .ok (d, z) =>
    if s.nonceValid then signWith ⟨a, b, c, lows⟩ d z s.nonce s.consumeNonce
    else .next (s.awaitNonce ⟨a, b, c, lows⟩)

/-- The Boolean of VERIFY (R123). -/
def verifyPred (c : Curve) (q : Point) (r s z : Int) : Bool :=
  if inScalarRange c r && inScalarRange c s && decide (q ≠ .inf) then
    let w := modInv s c.n
    let u1 := z * w % c.n
    let u2 := r * w % c.n
    match ecAdd c (ecMul c u1.toNat (basePoint c)) (ecMul c u2.toNat q) with
    | .inf => false
    | .affine x _ => decide (x % c.n = r)
  else false

/-- VERIFY (R123). A group past B15 is illegal (30_encoding.md R73, R76; log 15). -/
def execVerify (a : PReg) (b c : BReg) (s : State) : Answer :=
  finish s do
    require (groupFits b 2) .illegalInstruction
    let q ← s.readP a
    let r ← s.readB (groupReg b 0)
    let sg ← s.readB (groupReg b 1)
    let z ← s.readB c
    pure (s.setT (verifyPred s.build.curve q r sg (z % s.build.curve.n))).nextPc

/-- The candidate point R of a signature (R124): INVALID_SIGNATURE_RANGE and INVALID_RECOVERY_ID in
order. -/
def candidatePoint (c : Curve) (r s v : Int) : Result Point := do
  require (inScalarRange c r && inScalarRange c s) .invalidSignatureRange
  require (decide (0 ≤ v ∧ v ≤ 3)) .invalidRecoveryId
  let x := r + v / 2 * c.n
  require (decide (x < c.p)) .invalidRecoveryId
  match rootOfParity? c (Curve.rhs c x % c.p) (v % 2) with
  | none => .error .invalidRecoveryId
  | some y => .ok (.affine x y)

/-- Q = u1·G + u2·R with u1 = (−z·r⁻¹) mod n and u2 = (s·r⁻¹) mod n (R124, conflict C13). -/
def recoveredKey (c : Curve) (r s z : Int) (cand : Point) : Point :=
  let rinv := modInv r c.n
  ecAdd c (ecMul c (-(z * rinv) % c.n).toNat (basePoint c)) (ecMul c (s * rinv % c.n).toNat cand)

/-- RECOVER (R124). A group past B15 is illegal (30_encoding.md R73, R76; log 15). -/
def execRecover (a : PReg) (b c : BReg) (s : State) : Answer :=
  finish s do
    require (groupFits b 3) .illegalInstruction
    let r ← s.readB (groupReg b 0)
    let sg ← s.readB (groupReg b 1)
    let v ← s.readB (groupReg b 2)
    let zr ← s.readB c
    let z := zr % s.build.curve.n
    let cand ← candidatePoint s.build.curve r sg v
    let q := recoveredKey s.build.curve r sg z cand
    require (verifyPred s.build.curve q r sg z) .recoveryMismatch
    pure (s.setP a q).nextPc

end Sys2Proof.Machine
end

