-- ==== Sys2Proof/Machine/Modular.lean ====
section
/-! DEFINITION. Modular reduction, exponentiation and inverse (43_modular.md R103 to R106). -/

namespace Sys2Proof.Machine

/-- MOD (R104). -/
def execMod (a b c : BReg) (s : State) : Answer :=
  finish s do
    let (x, m) ← s.readB2 b c
    requireModulus m
    s.result a (x % m)

/-- MODEXP (R105): ((x mod m)^e) mod m. -/
def execModexp (a b c d : BReg) (s : State) : Answer :=
  finish s do
    let (x, e) ← s.readB2 b c
    let m ← s.readB d
    requireModulus m
    requireNonNeg e
    s.result a (powMod (x % m).toNat e.toNat m.toNat : Nat)

/-- MODINV (R106). -/
def execModinv (a b c : BReg) (s : State) : Answer :=
  finish s do
    let (x, m) ← s.readB2 b c
    requireModulus m
    require (decide (Nat.gcd (x % m).toNat m.toNat = 1)) .noInverse
    s.result a (modInv x m)

end Sys2Proof.Machine
end

