-- ==== Sys2Proof/Machine/Sequencer.lean ====
section
/-! DEFINITION. The sequencer instructions (46_sequencer.md R125 to R131). -/

namespace Sys2Proof.Machine

/-- NOP (R125). -/
def execNop (s : State) : Answer := .next s.nextPc

/-- HALT (R126): PC stays at the HALT. -/
def execHalt (s : State) : Answer := .next s.stop

/-- JMP (R127): a target ≥ IMEM_WORDS is taken. -/
def execJmp (target : BitVec 16) (s : State) : Answer := .next (s.jump (branchTarget target))

/-- BR (R128). -/
def execBr (cond : Cond) (target : BitVec 16) (s : State) : Answer :=
  .next (if s.flags.holds cond then s.jump (branchTarget target) else s.nextPc)

/-- MOV (R129). -/
def execMov (a b : BReg) (s : State) : Answer :=
  finish s do
    let v ← s.readB b
    s.result a v

/-- LDI (R130). -/
def execLdi (a : BReg) (imm : BitVec 16) (s : State) : Answer :=
  finish s (s.result a (sextImm imm))

/-- LDC (R131). -/
def execLdc (a : BReg) (sel : CurveConst) (s : State) : Answer :=
  finish s (s.result a (curveConst s.build.curve sel))

end Sys2Proof.Machine
end

