-- ==== Sys2Proof/Machine/Dispatch.lean ====
section
/-! DEFINITION. One arm for each instruction of 30_encoding.md R74: its meaning. -/

namespace Sys2Proof.Machine

def exec (i : Instr) (s : State) : Host.Outcome State Fault Refusal :=
  match i with
  | .nop => Sys2Proof.Machine.execNop s
  | .halt => Sys2Proof.Machine.execHalt s
  | .jmp t => Sys2Proof.Machine.execJmp t s
  | .br k t => Sys2Proof.Machine.execBr k t s
  | .mov a b => Sys2Proof.Machine.execMov a b s
  | .ldi a imm => Sys2Proof.Machine.execLdi a imm s
  | .ldc a k => Sys2Proof.Machine.execLdc a k s
  | .add a b c => Sys2Proof.Machine.execAdd a b c s
  | .sub a b c => Sys2Proof.Machine.execSub a b c s
  | .mul a b c => Sys2Proof.Machine.execMul a b c s
  | .div a b c => Sys2Proof.Machine.execDiv a b c s
  | .rem a b c => Sys2Proof.Machine.execRem a b c s
  | .cmp b c => Sys2Proof.Machine.execCmp b c s
  | .shl a b imm => Sys2Proof.Machine.execShl a b imm s
  | .shr a b imm => Sys2Proof.Machine.execShr a b imm s
  | .bitlen a b => Sys2Proof.Machine.execBitlen a b s
  | .bit b c => Sys2Proof.Machine.execBit b c s
  | .biti b imm => Sys2Proof.Machine.execBiti b imm s
  | .mod a b c => Sys2Proof.Machine.execMod a b c s
  | .modexp a b c d => Sys2Proof.Machine.execModexp a b c d s
  | .modinv a b c => Sys2Proof.Machine.execModinv a b c s
  | .ldbe a addr len => Sys2Proof.Machine.execLdbe a addr len s
  | .ldle a addr len => Sys2Proof.Machine.execLdle a addr len s
  | .stbe a addr len => Sys2Proof.Machine.execStbe a addr len s
  | .stle a addr len => Sys2Proof.Machine.execStle a addr len s
  | .ldhex a addr len => Sys2Proof.Machine.execLdhex a addr len s
  | .sthex a addr len => Sys2Proof.Machine.execSthex a addr len s
  | .lddec a addr len => Sys2Proof.Machine.execLddec a addr len s
  | .stdec a addr len => Sys2Proof.Machine.execStdec a addr len s
  | .pinf a => Sys2Proof.Machine.execPinf a s
  | .pgen a => Sys2Proof.Machine.execPgen a s
  | .pmk a b c => Sys2Proof.Machine.execPmk a b c s
  | .px a b => Sys2Proof.Machine.execPx a b s
  | .py a b => Sys2Proof.Machine.execPy a b s
  | .pisinf b => Sys2Proof.Machine.execPisinf b s
  | .padd a b c => Sys2Proof.Machine.execPadd a b c s
  | .pdbl a b => Sys2Proof.Machine.execPdbl a b s
  | .pmul a b c => Sys2Proof.Machine.execPmul a b c s
  | .digz a addr len => Sys2Proof.Machine.execDigz a addr len s
  | .sign a b c lows => Sys2Proof.Machine.execSign a b c lows s
  | .verify a b c => Sys2Proof.Machine.execVerify a b c s
  | .recover a b c => Sys2Proof.Machine.execRecover a b c s

end Sys2Proof.Machine
end

