-- ==== Sys2Proof/Machine/HostPort.lean ====
section
/-! DEFINITION. What the outside does to the machine: the CSRs (10_state.md R31 to R46), the windows
(20_memory.md R51 to R55), START and ABORT (60_exceptions.md R137, R138), the IRQ output (R136) and the
reset input (70_reset_and_hazards.md R151, R152). -/

namespace Sys2Proof.Machine

/-! ## Derived state -/

/-- BUSY = (RUNSTATE ≠ IDLE) (10_state.md R30). -/
def State.busy (s : State) : Bool :=
  match s.runState with
  | .idle => false
  | .run | .nonceWait _ => true

/-- NONCE_REQ = (RUNSTATE = NONCE_WAIT) (R36). -/
def State.nonceReq (s : State) : Bool :=
  match s.runState with
  | .nonceWait _ => true
  | .idle | .run => false

/-- The interrupt output, level-sensitive and active high (60_exceptions.md R136). -/
def State.irq (s : State) : Bool :=
  (s.done && s.irqEn.getLsbD 0) || (s.err && s.irqEn.getLsbD 1) || (s.nonceReq && s.irqEn.getLsbD 2)

/-! ## CSR values -/

/-- ID (R32). -/
def idWord : Word := 0x4C430100

/-- CONFIG0 (R33). -/
def State.config0 (s : State) : Word :=
  0#8 ++ BitVec.ofNat 8 s.build.digitBits ++ BitVec.ofNat 16 s.build.maxBits

/-- CONFIG1 (R34). -/
def State.config1 (s : State) : Word :=
  BitVec.ofNat 16 s.build.dmemBytes ++ BitVec.ofNat 16 s.build.imemWords

/-- STATUS (R36). -/
def State.status (s : State) : Word :=
  0#27 ++ BitVec.ofBool s.hwErr ++ BitVec.ofBool s.nonceReq ++ BitVec.ofBool s.err ++
    BitVec.ofBool s.done ++ BitVec.ofBool s.busy

/-- Valid bits as a number, bit i for register i. -/
def validBits (l : List Bool) : Nat := l.foldr (fun v k => v.toNat + 2 * k) 0

/-- VALID (R44). -/
def State.validWord (s : State) : Word :=
  0#8 ++ BitVec.ofNat 8 (validBits s.vp.toList) ++ BitVec.ofNat 16 (validBits s.vb.toList)

/-- A read that is exact while IDLE and a draw of the field's k bits while BUSY (20_memory.md R55; R39,
R42, R43, R44); the reserved bits read 0 in both (R31). -/
def State.exactWhileIdle (s : State) (k : Nat) (exact : Word) : Word :=
  if s.busy then BitVec.setWidth 32 (BitVec.setWidth k (Config.drawWord s.draws)) else exact

/-- A CSR read (R31): an offset the table does not list reads 0; CTRL and NONCE_W read 0. -/
def State.csrRead (s : State) (offset : Nat) : Word :=
  match offset with
  | 0x00 => idWord
  | 0x04 => s.config0
  | 0x08 => s.config1
  | 0x14 => s.status
  | 0x18 => BitVec.setWidth 32 s.irqEn
  | 0x1C => BitVec.setWidth 32 s.startPc
  | 0x20 => s.exactWhileIdle 16 (BitVec.setWidth 32 s.pc)
  | 0x24 => BitVec.setWidth 32 s.errCode
  | 0x28 => BitVec.setWidth 32 s.errPc
  | 0x2C => s.exactWhileIdle 6 (BitVec.setWidth 32 s.flags.bits)
  | 0x30 => s.exactWhileIdle 16 (BitVec.setWidth 32 s.slen)
  | 0x34 => s.exactWhileIdle 24 s.validWord
  | 0x60 => BitVec.setWidth 32 (BitVec.ofBool s.nonceValid)
  | _ => 0

/-! ## The host address space (20_memory.md R51) -/

/-- What an offset reaches. -/
inductive HostRegion where
  | csr (offset : Nat)
  /-- The DMEM word that begins at byte `a`. -/
  | dmem (a : Nat)
  /-- IMEM[i]. -/
  | imem (i : Nat)
  | unmapped
deriving DecidableEq, Repr

/-- The region of a word-aligned offset; a window offset past the configured size is unmapped (R51). -/
def State.hostRegion (s : State) (offset : Nat) : HostRegion :=
  if offset < 0x100 then .csr offset
  else if 0x8000 ≤ offset ∧ offset < 0x9000 ∧ offset - 0x8000 < s.build.dmemBytes then
    .dmem (offset - 0x8000)
  else if 0x10000 ≤ offset ∧ offset < 0x20000 ∧ (offset - 0x10000) / 4 < s.build.imemWords then
    .imem ((offset - 0x10000) / 4)
  else .unmapped

/-- The DMEM word at byte a, little-endian (R53); an unwritten byte is a draw (R50). -/
def State.dmemWord (s : State) (a : Nat) : Word := BitVec.ofNat 32 (leValue (s.dmemBytes a 4))

/-- IMEM[i] as the host sees it (R54); an unwritten word is a draw (R50). -/
def State.imemWord (s : State) (i : Nat) : Word := (Cells.read s.imem i).getD (Config.drawWord s.draws)

/-- What a host read of a word returns: 0 while reset is asserted (70_reset_and_hazards.md R151), a draw
of a window while BUSY (R55). -/
def State.hostReadValue (s : State) (offset : Nat) : Word :=
  if s.resetLine then 0
  else match s.hostRegion offset with
    | .csr o => s.csrRead o
    | .dmem a => if s.busy then Config.drawWord s.draws else s.dmemWord a
    | .imem i => if s.busy then Config.drawWord s.draws else s.imemWord i
    | .unmapped => 0

/-- The most draws one host read uses: four unwritten bytes. -/
def drawsPerHostRead : Nat := 4

/-- A host read: no side effect (R59) but the model's own record of it (log 7). -/
def State.hostRead (offset : Nat) (s : State) : State :=
  { s with reads := s.hostReadValue offset :: s.reads, draws := s.draws + drawsPerHostRead }

/-! ## Host writes -/

/-- ABORT (60_exceptions.md R138): no effect while IDLE. -/
def State.abort (s : State) : State := if s.busy then s.raise .aborted else s

/-- An access the protocol forbids sets HWERR and has no other effect (60_exceptions.md R139). -/
def State.protocolError (s : State) : State := { s with hwErr := true }

/-- A write of CTRL (R35): ABORT is applied when BUSY and START when IDLE. -/
def State.writeCtrl (u : Word) (s : State) : State :=
  if s.busy then
    if u.getLsbD 1 then s.abort else if u.getLsbD 0 then s.protocolError else s
  else if u.getLsbD 0 then s.start else s

/-- A write of STATUS: DONE, ERR and HWERR are cleared by a 1 (R36). -/
def State.writeStatus (u : Word) (s : State) : State :=
  { s with done := s.done && !u.getLsbD 1, err := s.err && !u.getLsbD 2,
           hwErr := s.hwErr && !u.getLsbD 4 }

/-- A write of NONCE_W[i] (R45). -/
def State.writeNonceWord (i : Fin 8) (u : Word) (s : State) : State :=
  if s.nonceValid then s.protocolError else { s with nonceW := s.nonceW.set i.val u i.isLt }

/-- A write of NONCE_CTRL (R46): W1S. -/
def State.writeNonceCtrl (u : Word) (s : State) : State :=
  { s with nonceValid := s.nonceValid || u.getLsbD 0 }

/-- A CSR write (R31): read-only CSRs and unlisted offsets ignore it. -/
def State.csrWrite (offset : Nat) (u : Word) (s : State) : State :=
  match offset with
  | 0x10 => s.writeCtrl u
  | 0x14 => s.writeStatus u
  | 0x18 => { s with irqEn := u.extractLsb' 0 3 }
  | 0x1C => { s with startPc := u.extractLsb' 0 16 }
  | 0x40 => s.writeNonceWord 0 u
  | 0x44 => s.writeNonceWord 1 u
  | 0x48 => s.writeNonceWord 2 u
  | 0x4C => s.writeNonceWord 3 u
  | 0x50 => s.writeNonceWord 4 u
  | 0x54 => s.writeNonceWord 5 u
  | 0x58 => s.writeNonceWord 6 u
  | 0x5C => s.writeNonceWord 7 u
  | 0x60 => s.writeNonceCtrl u
  | _ => s

/-- A write of the DMEM word at byte a (R53); ignored with HWERR while BUSY (R55). -/
def State.dmemWindowWrite (a : Nat) (u : Word) (s : State) : State :=
  if s.busy then s.protocolError else { s with dmem := writeBytes s.dmem a (leBytes 4 u.toNat) }

/-- A write of IMEM[i] (R54); ignored with HWERR while BUSY (R55). -/
def State.imemWindowWrite (i : Nat) (u : Word) (s : State) : State :=
  if s.busy then s.protocolError else { s with imem := Cells.write s.imem i u }

/-- A host write of a word; it has no effect while reset is asserted (70_reset_and_hazards.md R151). -/
def State.hostWrite (offset : Nat) (u : Word) (s : State) : State :=
  if s.resetLine then s
  else match s.hostRegion offset with
    | .csr o => s.csrWrite o u
    | .dmem a => s.dmemWindowWrite a u
    | .imem i => s.imemWindowWrite i u
    | .unmapped => s

/-- The interface has aligned 32-bit accesses only (R52). -/
def wordAccess (offset : BitVec 18) (width : AccessWidth) : Bool :=
  decide (width = .word) && decide (offset.toNat % 4 = 0)

/-- A host access, refused where it is outside the interface (R52). -/
def hostAccess (offset : BitVec 18) (width : AccessWidth) (effect : Nat → State) : Answer :=
  if wordAccess offset width then .next (effect offset.toNat)
  else .refused .hostAccessOutsideInterface

/-! ## Reset -/

/-- Asserting reset (70_reset_and_hazards.md R151): every piece of state takes its reset value; IMEM and
DMEM keep what was written; the model's own fields go on (log 12). -/
def State.assertReset (s : State) : State :=
  { State.powerOn s.build with
    imem := s.imem, dmem := s.dmem, resetLine := true, inputs := s.inputs, reads := s.reads,
    draws := s.draws }

/-- Releasing reset: the engine is IDLE and the host protocol applies (R151). -/
def State.releaseReset (s : State) : State := { s with resetLine := false }

end Sys2Proof.Machine
end

