-- ==== Sys2Proof/Machine/Step.lean ====
section
/-! DEFINITION. One step of the machine: the next turn of the schedule, or, where the schedule is empty, a
step of the engine (60_exceptions.md R149, 70_reset_and_hazards.md R157; log 6). -/

namespace Sys2Proof.Machine

/-- Fetch, decode and execute in RUN (20_memory.md R56, 30_encoding.md R75). -/
def runStep (s : State) : Answer :=
  match s.fetch with
  | none => .next (s.raise .pcRange)
  | some (w, t) =>
    match decode w with
    | .error _ => .next (t.raise .illegalInstruction)
    | .ok i => exec i t

/-- One step of the engine (10_state.md R30). In IDLE, while reset is asserted, and in NONCE_WAIT without
a nonce nothing changes; a nonce ends the wait and the SIGN goes on (45_ecdsa.md R121; logs 9 to 11). -/
def engineStep (s : State) : Answer :=
  if s.resetLine then .next s
  else match s.runState with
    | .idle => .next s
    | .run => runStep s
    | .nonceWait held =>
      if s.nonceValid then
        exec (.sign held.a held.b held.c held.lows) { s with runState := .run }
      else .next s

/-- What a turn does. -/
def takeTurn (turn : Turn) (s : State) : Answer :=
  match turn with
  | .engine => engineStep s
  | .read offset width => hostAccess offset width fun o => s.hostRead o
  | .write offset width data => hostAccess offset width fun o => s.hostWrite o data
  | .assertReset => .next s.assertReset
  | .releaseReset => .next s.releaseReset

/-- One step of the machine. -/
def step (s : State) : Host.Outcome State Fault Refusal :=
  match s.inputs with
  | [] => engineStep s
  | turn :: rest => takeTurn turn { s with inputs := rest }

/-- `s` with an instruction word of `nbits` bits placed where the next step fetches: at PC (at 0 where PC
lies outside IMEM), the engine in RUN, reset released and no turn before the engine's. It stands for the
host's loading and START (log 18). -/
def State.withFetchWord (s : State) (nbits w : Nat) : State :=
  let at_ : BitVec 16 := if s.pc.toNat < s.build.imemWords then s.pc else 0
  { s with imem := Cells.write s.imem at_.toNat (BitVec.ofNat 32 (w % 2 ^ nbits)), pc := at_,
           runState := .run, resetLine := false, inputs := [] }

end Sys2Proof.Machine
end

