-- ==== Sys2Proof/Safety.lean ====
section
/-! DEFINITION. The terms claims use: legal builds (00_scope.md R9 to R13), the invariants of a run, the
error entry and the ends of a run (60_exceptions.md R134, R150) in the spec's own words. -/

namespace Sys2Proof

/-- The constraints on CURVE (00_scope.md R13). -/
structure Config.Curve.Legal (c : Config.Curve) : Prop where
  p_prime    : Nat.Prime c.p.toNat
  p_mod_four : c.p % 4 = 3
  a_range    : 0 ≤ c.a ∧ c.a < c.p
  b_range    : 0 ≤ c.b ∧ c.b < c.p
  base_on    : Machine.onCurve c c.gx c.gy = true
  n_prime    : Nat.Prime c.n.toNat
  n_lt_p     : c.n < c.p
  n_bits     : Machine.bitlen c.n.toNat ≤ 256
  base_order : Machine.ecMul c c.n.toNat (Machine.basePoint c) = .inf

/-- The legal values of the build parameters (00_scope.md section 3). -/
structure Config.Build.Legal (k : Config.Build) : Prop where
  maxBits_range   : 256 ≤ k.maxBits ∧ k.maxBits ≤ 4096
  maxBits_step    : k.maxBits % 64 = 0
  p_fits          : Machine.bitlen k.curve.p.toNat ≤ k.maxBits
  digitBits_legal : k.digitBits = 8 ∨ k.digitBits = 16 ∨ k.digitBits = 32 ∨ k.digitBits = 64
  imemWords_range : 1 ≤ k.imemWords ∧ k.imemWords ≤ 16384
  dmemBytes_range : 4 ≤ k.dmemBytes ∧ k.dmemBytes ≤ 4096
  dmemBytes_step  : k.dmemBytes % 4 = 0
  curve_legal     : k.curve.Legal

/-- The curve has no singular point: 4a³ + 27b² ≢ 0 (mod p). R13 does not list it; it is what an elliptic
curve is, and what LCT's "points form an abelian group" (44_ec_point.md R109) needs. -/
def Config.Curve.Nonsingular (c : Config.Curve) : Prop :=
  (4 * (c.a * c.a * c.a) + 27 * (c.b * c.b)) % c.p ≠ 0

namespace Machine

/-! ## Invariants -/

/-- Every valid BigInt register holds v with |v| < 2^MAX_BITS (10_state.md R22, 00_scope.md R9). -/
def RegistersFit (s : State) : Prop :=
  ∀ r : BReg, s.vb[r] = true → s.b[r].natAbs < 2 ^ s.build.maxBits

/-- Every valid point register holds INF or a point on the curve (10_state.md R26). -/
def PointsOnCurve (s : State) : Prop :=
  ∀ r : PReg, s.vp[r] = true → (s.p[r]).member s.build.curve = true

/-- Both memories are in their canonical form. -/
def MemoriesCanonical (s : State) : Prop := s.memoriesWf = true

/-- While BUSY no end of a run is recorded: START cleared it (60_exceptions.md R137). -/
def BusyIsClean (s : State) : Prop :=
  s.busy = true → s.done = false ∧ s.err = false ∧ s.errCode = 0 ∧ s.errPc = 0

/-- ERRCODE holds a code of 60_exceptions.md R132, or 0. -/
def ErrorCodeKnown (s : State) : Prop :=
  s.errCode = 0 ∨ ∃ e : EngineError, s.errCode = e.code

/-- A SIGN that waits has a result group inside the register file (30_encoding.md R73). -/
def HeldSignFits (s : State) : Prop :=
  ∀ held, s.runState = .nonceWait held → groupFits held.a 3 = true

/-- While reset is asserted, every piece of the spec's state but the memories has its reset value
(70_reset_and_hazards.md R151, R152). -/
def ResetHolds (s : State) : Prop :=
  s.resetLine = true → s = s.assertReset

/-- The invariants of the machine on a legal build, together. -/
structure Inv (s : State) : Prop where
  build     : s.build.Legal
  registers : RegistersFit s
  points    : PointsOnCurve s
  memories  : MemoriesCanonical s
  busy      : BusyIsClean s
  code      : ErrorCodeKnown s
  held      : HeldSignFits s
  reset     : ResetHolds s

/-! ## What an instruction leaves, in the spec's words -/

/-- The state after `B[a] <- v`, setZN(v), `pc <- pc + 1` (00_scope.md R18): the end of every instruction
of the ZN list (10_state.md R28). Nothing else changes. -/
def wrote (a : BReg) (v : Int) (s : State) : State :=
  { s with
    b := s.b.set a.val v a.isLt, vb := s.vb.set a.val true a.isLt,
    flags := { s.flags with z := decide (v = 0), n := decide (v < 0) }, pc := s.pc + 1 }

/-- The state after `P[a] <- pt`, `pc <- pc + 1`. Nothing else changes. -/
def wrotePoint (a : PReg) (pt : Point) (s : State) : State :=
  { s with p := s.p.set a.val pt a.isLt, vp := s.vp.set a.val true a.isLt, pc := s.pc + 1 }

/-- The state after `FLAGS.T <- t`, `pc <- pc + 1`. Nothing else changes. -/
def wroteT (t : Bool) (s : State) : State :=
  { s with flags := { s.flags with t := t }, pc := s.pc + 1 }

/-- The state after SIGN's three results and `pc <- pc + 1` (45_ecdsa.md R122). Nothing else changes. -/
def wroteSignature (a : BReg) (r sg v : Int) (s : State) : State :=
  { s with
    b := ((s.b.set a.val r a.isLt).setIfInBounds (a.val + 1) sg).setIfInBounds (a.val + 2) v,
    vb := ((s.vb.set a.val true a.isLt).setIfInBounds (a.val + 1) true).setIfInBounds (a.val + 2) true,
    pc := s.pc + 1 }

/-- The state after `DMEM <- m`, `SLEN <- L`, `pc <- pc + 1`: the end of every store
(42_bigint_conversion.md R97). Nothing else changes. -/
def stored (m : List Host.Cell) (L : Nat) (s : State) : State :=
  { s with dmem := m, slen := BitVec.ofNat 16 L, pc := s.pc + 1 }

/-- The state after a nonce is consumed (45_ecdsa.md R121). Nothing else changes. -/
def consumed (s : State) : State :=
  { s with nonceValid := false, nonceW := Vector.replicate 8 0 }

/-- The state of a SIGN that waits (45_ecdsa.md R121): PC stays at the SIGN. Nothing else changes. -/
def waiting (held : SignOperands) (s : State) : State := { s with runState := .nonceWait held }

/-- k draws of the model's counter are used (20_memory.md R50, log 3). Nothing of the spec's state changes. -/
def drew (k : Nat) (s : State) : State := { s with draws := s.draws + k }

/-- The state after an error with this code at PC (60_exceptions.md R134). Nothing else changes. -/
def stopped (code : BitVec 8) (s : State) : State :=
  { s with runState := .idle, err := true, errCode := code, errPc := s.pc }

/-! ## What an instruction reads -/

/-- Both registers are valid (10_state.md R23). -/
def Valid2 (s : State) (b c : BReg) : Prop := s.vb[b] = true ∧ s.vb[c] = true

/-- The bytes at `a` in a memory are these, every one written. -/
def Holds (m : List Host.Cell) (a : Nat) (bytes : List Byte) : Prop :=
  ∀ j, (h : j < bytes.length) → Cells.read m (a + j) = some bytes[j]

/-- A read at `a` may give these bytes: a byte that was written is the written one, any other is a draw
(20_memory.md R50). -/
def MayRead (m : List Host.Cell) (a : Nat) (bytes : List Byte) : Prop :=
  ∀ j, (h : j < bytes.length) → ∀ x, Cells.read m (a + j) = some x → bytes[j] = x

/-- Two memories agree outside the n bytes at `a`. -/
def SameOutside (m m' : List Host.Cell) (a n : Nat) : Prop :=
  ∀ a', a' < a ∨ a + n ≤ a' → Cells.read m' a' = Cells.read m a'

/-- The sum over j of s[j]·2^(8·(len−1−j)) (42_bigint_conversion.md R95). -/
def bigEndian (s : List Byte) : Nat :=
  ∑ j : Fin s.length, s[j].toNat * 2 ^ (8 * (s.length - 1 - j.val))

/-- The sum over j of s[j]·2^(8·j) (42_bigint_conversion.md R96). -/
def littleEndian (s : List Byte) : Nat := ∑ j : Fin s.length, s[j].toNat * 2 ^ (8 * j.val)

/-- L is the least length with v < 2^L (00_scope.md R16). -/
def IsBitLength (v L : Nat) : Prop := v < 2 ^ L ∧ ∀ k, v < 2 ^ k → L ≤ k

/-- L = max(1, ceil(bitlen(v) / 8)) (00_scope.md R17): the least number of bytes, but one for 0. -/
def IsByteLength (v L : Nat) : Prop := 1 ≤ L ∧ v < 256 ^ L ∧ ∀ k, 1 ≤ k → v < 256 ^ k → L ≤ k

/-! ## Strings (42_bigint_conversion.md R93, R94) -/

/-- A character is a digit of value d (R93). -/
def IsDigit (r : Radix) (c : Byte) (d : Nat) : Prop :=
  (0x30 ≤ c.toNat ∧ c.toNat ≤ 0x39 ∧ d = c.toNat - 0x30) ∨
  (r = .hex ∧ 0x41 ≤ c.toNat ∧ c.toNat ≤ 0x46 ∧ d = c.toNat - 0x41 + 10) ∨
  (r = .hex ∧ 0x61 ≤ c.toNat ∧ c.toNat ≤ 0x66 ∧ d = c.toNat - 0x61 + 10)

/-- `digit { digit }` with value m, the most significant digit first (R93). -/
def IsDigits (r : Radix) (str : List Byte) (m : Nat) : Prop :=
  ∃ ds : List Nat, ds ≠ [] ∧ List.Forall₂ (IsDigit r) str ds ∧ m = Nat.ofDigits r.base ds.reverse

/-- `[ '-' ] digit { digit }` with value v (R93). -/
def Denotes (r : Radix) (str : List Byte) (v : Int) : Prop :=
  ∃ m : Nat, (IsDigits r str m ∧ v = m) ∨ (∃ t, str = 0x2D :: t ∧ IsDigits r t m ∧ v = -(m : Int))

/-- The canonical string of x (R94): it denotes x, with lowercase digits, '-' only below 0, and no leading
zero but in "0". -/
def IsCanonical (r : Radix) (x : Int) (str : List Byte) : Prop :=
  Denotes r str x ∧ (∀ c ∈ str, ¬ (0x41 ≤ c.toNat ∧ c.toNat ≤ 0x46)) ∧
  (x = 0 → str = [0x30]) ∧ (0 < x → str[0]? ≠ some 0x30) ∧
  (x < 0 → str[0]? = some 0x2D ∧ str[1]? ≠ some 0x30)

/-! ## Points and ECDSA -/

/-- (x, y) is a point of the curve (44_ec_point.md R107). -/
def IsOnCurve (c : Config.Curve) (x y : Int) : Prop :=
  0 ≤ x ∧ x < c.p ∧ 0 ≤ y ∧ y < c.p ∧ (y * y - (x * x * x + c.a * x + c.b)) % c.p = 0

/-- The third point of the line of slope lam through (x1, y1) and a point of abscissa x2 (44_ec_point.md
R108, R109). -/
def thirdPoint (p lam x1 y1 x2 : Int) : Point :=
  .affine ((lam * lam - x1 - x2) % p) ((lam * (x1 - (lam * lam - x1 - x2) % p) - y1) % p)

/-- 1 ≤ k ≤ n − 1. -/
def InRange (c : Config.Curve) (k : Int) : Prop := 1 ≤ k ∧ k ≤ c.n - 1

/-- The T of VERIFY is 1 (45_ecdsa.md R123). -/
def Accepts (c : Config.Curve) (q : Point) (r s z : Int) : Prop :=
  InRange c r ∧ InRange c s ∧ q ≠ .inf ∧
  ∃ w x y, s * w % c.n = 1 ∧
    ecAdd c (ecMul c (z * w % c.n).toNat (basePoint c)) (ecMul c (r * w % c.n).toNat q) = .affine x y ∧
    x % c.n = r

/-- y is the square root RECOVER takes: y in [0, p), y² ≡ x³ + a·x + b, y mod 2 = parity
(45_ecdsa.md R124). -/
def IsRoot (c : Config.Curve) (x parity y : Int) : Prop :=
  0 ≤ y ∧ y < c.p ∧ y * y % c.p = (x * x * x + c.a * x + c.b) % c.p ∧ y % 2 = parity

/-! ## Turns -/

/-- The engine moves next, from s' (log 6): no turn is scheduled, or the next one is the engine's. -/
def EngineMoves (s s' : State) : Prop :=
  (s.inputs = [] ∧ s' = s) ∨ ∃ rest, s.inputs = .engine :: rest ∧ s' = { s with inputs := rest }

/-- s with one more turn before all others. -/
def facing (turn : Turn) (s : State) : State := { s with inputs := turn :: s.inputs }

/-- A host write of word u at an offset, before all other turns. -/
def facingWrite (offset : BitVec 18) (u : Word) (s : State) : State := facing (.write offset .word u) s

/-- s after a host read gave u; the model records it (log 7) and uses draws (log 3). -/
def gaveHost (u : Word) (s : State) : State :=
  { s with reads := u :: s.reads, draws := s.draws + 4 }

/-- The next turn is a host access that is not of a 32-bit word at a multiple of 4, "outside the interface"
(20_memory.md R52). -/
def AccessOutsideInterface (s : State) : Prop :=
  ∃ offset width rest,
    (s.inputs = .read offset width :: rest ∨ ∃ u, s.inputs = .write offset width u :: rest) ∧
    ¬ (width = .word ∧ offset.toNat % 4 = 0)

/-! ## Words and conditions -/

/-- The opcode bytes R76 lists as illegal. -/
def UnlistedOpcode (op : Nat) : Prop :=
  (0x04 ≤ op ∧ op ≤ 0x0F) ∨ (0x13 ≤ op ∧ op ≤ 0x1F) ∨ op = 0x26 ∨ op = 0x27 ∨
  (0x2D ≤ op ∧ op ≤ 0x2F) ∨ (0x33 ≤ op ∧ op ≤ 0x3F) ∨ (0x48 ≤ op ∧ op ≤ 0x4F) ∨
  (0x59 ≤ op ∧ op ≤ 0x5F) ∨ (0x64 ≤ op ∧ op ≤ 0xFF)

/-- The words R76 lists as illegal. -/
def IllegalWord (w : Word) : Prop :=
  UnlistedOpcode (w.toNat / 2 ^ 24) ∨
  (∃ r ∈ opcodeMap, opField w = opField r.pattern ∧ w &&& r.mask ≠ r.pattern) ∨
  (w.toNat / 2 ^ 24 = 0x03 ∧ 12 ≤ w.toNat / 2 ^ 20 % 16) ∨
  (w.toNat / 2 ^ 24 = 0x12 ∧ 5 < w.toNat % 2 ^ 16) ∨
  (w.toNat / 2 ^ 24 = 0x61 ∧ 13 < w.toNat / 2 ^ 20 % 16) ∨
  (w.toNat / 2 ^ 24 = 0x62 ∧ 14 < w.toNat / 2 ^ 16 % 16) ∨
  (w.toNat / 2 ^ 24 = 0x63 ∧ 13 < w.toNat / 2 ^ 16 % 16)

/-- What a BR condition tests, by its code (46_sequencer.md R128). -/
def ConditionHolds (f : Flags) (code : Nat) : Prop :=
  match code with
  | 0 => f.z = true | 1 => f.z = false | 2 => f.n = true | 3 => f.n = false
  | 4 => f.lt = true | 5 => f.lt = false | 6 => f.eq = true | 7 => f.eq = false
  | 8 => f.gt = true | 9 => f.gt = false | 10 => f.t = true | 11 => f.t = false
  | _ => False

/-! ## What one instruction does, where several statements say it -/

/-- What a byte load of value v does (42_bigint_conversion.md R95): it writes v with Z and N where v fits, and
REG_OVERFLOW where it does not. -/
def LoadsValue (i : Instr) (a : BReg) (v : Nat) (s t : State) : Prop :=
  (2 ^ s.build.maxBits ≤ v → exec i s = .next (stopped 0x05 t)) ∧
  (v < 2 ^ s.build.maxBits → exec i s = .next (wrote a v t))

/-- What a string load of these bytes does (42_bigint_conversion.md R99): PARSE_ERROR outside the grammar of
R93, REG_OVERFLOW where the value is too large, else the value with Z and N. -/
def LoadsString (r : Radix) (i : Instr) (a : BReg) (str : List Byte) (s t : State) : Prop :=
  ((∀ v, ¬ Denotes r str v) → exec i s = .next (stopped 0x10 t)) ∧
  ∀ v, Denotes r str v →
    (2 ^ s.build.maxBits ≤ v.natAbs → exec i s = .next (stopped 0x05 t)) ∧
    (v.natAbs < 2 ^ s.build.maxBits → exec i s = .next (wrote a v t))

/-- The nonce in the port, Σ NONCE_W[i]·2^(32·i) (10_state.md R45). -/
def nonceSum (s : State) : Nat := ∑ i : Fin 8, s.nonceW[i].toNat * 2 ^ (32 * i.val)

/-- What SIGN does with a consumed nonce k, from the state u after the consumption (45_ecdsa.md R122). R = INF does
not occur for k in range ("Corner cases" of the rule), so it has no clause. -/
def SignsWith (k : Nat) (a b c : BReg) (lows : Bool) (s u : State) : Prop :=
  ∀ (n z : Int), n = s.build.curve.n → z = s.b[c] % n →
    (¬ InRange s.build.curve k → exec (.sign a b c lows) s = .next (stopped 0x0B u)) ∧
    (InRange s.build.curve k →
      ∀ x y, ecMul s.build.curve k (basePoint s.build.curve) = .affine x y →
        (x % n = 0 → exec (.sign a b c lows) s = .next (waiting ⟨a, b, c, lows⟩ u)) ∧
        (x % n ≠ 0 → ∃ ki sg v : Int, k * ki % n = 1 ∧ sg = ki * (z + x % n * s.b[b]) % n ∧
          v = y % 2 + (if n ≤ x then 2 else 0) ∧
          (sg = 0 → exec (.sign a b c lows) s = .next (waiting ⟨a, b, c, lows⟩ u)) ∧
          (sg ≠ 0 → (lows = false ∨ 2 * sg ≤ n) →
            exec (.sign a b c lows) s = .next (wroteSignature a (x % n) sg v u)) ∧
          (sg ≠ 0 → lows = true → n < 2 * sg →
            exec (.sign a b c lows) s = .next
              (wroteSignature a (x % n) (n - sg) (1 - y % 2 + (if n ≤ x then 2 else 0)) u))))

/-! ## What an instruction may raise and write -/

/-- The errors each instruction may raise (60_exceptions.md R132, the "raised by" column). -/
def errorsOf : Instr → List (BitVec 8)
  | .nop | .halt | .jmp .. | .br .. | .ldi .. | .ldc .. | .pinf .. | .pgen .. => []
  | .mov .. | .cmp .. | .pisinf .. | .padd .. | .pdbl .. | .verify .. => [0x03]
  | .add .. | .sub .. | .mul .. => [0x03, 0x05]
  | .div .. | .rem .. => [0x03, 0x11]
  | .shl .. => [0x03, 0x07, 0x05]
  | .shr .. | .bitlen .. | .bit .. | .biti .. | .pmul .. => [0x03, 0x07]
  | .mod .. => [0x03, 0x11, 0x08]
  | .modexp .. => [0x03, 0x11, 0x08, 0x07]
  | .modinv .. => [0x03, 0x11, 0x08, 0x12]
  | .ldbe .. | .ldle .. => [0x04, 0x05]
  | .ldhex .. | .lddec .. => [0x04, 0x10, 0x05]
  | .stbe .. | .stle .. => [0x03, 0x07, 0x04, 0x06]
  | .sthex .. | .stdec .. => [0x03, 0x04, 0x06]
  | .pmk .. => [0x03, 0x13]
  | .px .. | .py .. => [0x03, 0x09]
  | .digz .. => [0x04]
  | .sign .. => [0x03, 0x0A, 0x0B]
  | .recover .. => [0x03, 0x14, 0x15, 0x16]

/-- The destination of the instructions of the ZN list (10_state.md R28). -/
def znDestination : Instr → Option BReg
  | .mov a _ | .ldi a _ | .ldc a _ | .add a _ _ | .sub a _ _ | .mul a _ _ | .div a _ _ | .rem a _ _ => some a
  | .shl a _ _ | .shr a _ _ | .bitlen a _ | .mod a _ _ | .modexp a _ _ _ | .modinv a _ _ => some a
  | .ldbe a _ _ | .ldle a _ _ | .ldhex a _ _ | .lddec a _ _ | .px a _ | .py a _ | .digz a _ _ => some a
  | _ => none

/-- The instructions that write T (10_state.md R27). -/
def writesT : Instr → Bool
  | .bit .. | .biti .. | .pisinf .. | .verify .. => true
  | _ => false

/-- The BigInt registers an instruction writes. -/
def writesB (i : Instr) (r : BReg) : Prop :=
  znDestination i = some r ∨
  ∃ a b c lows, i = .sign a b c lows ∧ (r.val = a.val ∨ r.val = a.val + 1 ∨ r.val = a.val + 2)

/-- The point register an instruction writes (10_state.md R26). -/
def pointDestination : Instr → Option PReg
  | .pinf a | .pgen a | .pmk a _ _ | .padd a _ _ | .pdbl a _ | .pmul a _ _ | .recover a _ _ => some a
  | _ => none

/-- The address a store writes at, EA = zext(addr12) (42_bigint_conversion.md R92). -/
def storesAt : Instr → Option Nat
  | .stbe _ addr _ | .stle _ addr _ | .sthex _ addr _ | .stdec _ addr _ => some addr.toNat
  | _ => none

/-! ## States that differ where it must not matter -/

/-- Two states differ at most in what their invalid registers hold. -/
def SameButInvalid (s s' : State) : Prop :=
  s' = { s with b := s'.b, p := s'.p } ∧
  (∀ r : BReg, s.vb[r] = true → s'.b[r] = s.b[r]) ∧ (∀ r : PReg, s.vp[r] = true → s'.p[r] = s.p[r])

/-- s on a build with another digit width. -/
def withDigitBits (k : Nat) (s : State) : State := { s with build := { s.build with digitBits := k } }

/-! ## The ends of a run (60_exceptions.md R150) -/

/-- The engine in RUN may fetch w: PC lies in IMEM, and the word there is w or was never written and is a draw
(20_memory.md R56, R50). -/
def MayFetch (s : State) (w : Word) : Prop :=
  s.runState = .run ∧ s.pc.toNat < s.build.imemWords ∧
    ∀ u, Cells.read s.imem s.pc.toNat = some u → u = w

/-- Where an error of this code comes from: a fetch past IMEM, a fetched word that is no instruction, a fetched
instruction that may raise it, or a SIGN that waited and got its nonce (60_exceptions.md R132, R134). -/
def ErrorArises (s : State) (code : BitVec 8) : Prop :=
  (s.runState = .run ∧ s.build.imemWords ≤ s.pc.toNat ∧ code = 0x02) ∨
  (∃ w, MayFetch s w ∧ IllegalWord w ∧ code = 0x01) ∨
  (∃ w i, MayFetch s w ∧ decode w = .ok i ∧ code ∈ errorsOf i) ∨
  ∃ held, s.runState = .nonceWait held ∧ s.nonceValid = true ∧
    code ∈ errorsOf (.sign held.a held.b held.c held.lows)

/-- Normal end: HALT at PC. -/
def NormalEnd (s : State) : Prop :=
  s.runState = .idle ∧ s.done = true ∧ s.err = false ∧ s.errCode = 0

/-- Error end: an error at PC = ERRPC. -/
def ErrorEnd (s : State) : Prop :=
  s.runState = .idle ∧ s.err = true ∧ s.done = false ∧ s.errPc = s.pc ∧
    ∃ e : EngineError, e ≠ .aborted ∧ s.errCode = e.code

/-- Aborted end: ABORT with PC = ERRPC. -/
def AbortedEnd (s : State) : Prop :=
  s.runState = .idle ∧ s.err = true ∧ s.done = false ∧ s.errPc = s.pc ∧ s.errCode = 0x0C

end Machine

end Sys2Proof
end

