-- ==== Sys2Proof/Certificates/Slice0/Obligations.lean ====
section
/-! DEFINITION. The statements for the provers. Each docstring names the rules of spec/ it states; the terms
are those of Sys2Proof/Safety.lean. OBLIGATIONS.json lists them. Turns, host reads and draws are shown through the
model's own fields `inputs`, `reads` and `draws` (logs 3, 6 and 7): that they are kept so is the model's choice; what
a turn does and what a read gives is the spec's. -/

section Obligations

open Sys2Proof Sys2Proof.Machine

/-! ## Encoding -/

/-- 30_encoding.md R69 to R75: decoding the word of any well-formed instruction gives the instruction back,
with every operand. -/
def Obligations.DecodeInvertsEncode : Prop :=
  ∀ i : Instr, i.wellFormed = true → decode (encode i) = .ok i

/-- 30_encoding.md R74, R75: a word has at most one meaning, and an instruction at most one word: whatever
decodes is well-formed and encodes to that very word. -/
def Obligations.EncodeInvertsDecode : Prop :=
  ∀ (w : Word) (i : Instr), decode w = .ok i → i.wellFormed = true ∧ encode i = w

/-- 30_encoding.md R74, R75: the map has 42 rows with distinct opcode bytes, no word matches two of them, and
a word decodes to an instruction exactly where it matches a row whose constraint holds. -/
def Obligations.DecodeFollowsTheOpcodeMap : Prop :=
  opcodeMap.length = 42 ∧
  (opcodeMap.map fun r => opField r.pattern).Nodup ∧
  (opcodeMap.Pairwise fun r r' => ∀ w : Word, ¬ (w &&& r.mask = r.pattern ∧ w &&& r'.mask = r'.pattern)) ∧
  ∀ (w : Word) (i : Instr),
    decode w = .ok i ↔ ∃ r ∈ opcodeMap, w &&& r.mask = r.pattern ∧ r.instr w = some i

/-- 30_encoding.md R76: the words of its list, and no others, are no instruction; when one is fetched the engine
stops with ILLEGAL_INSTRUCTION. -/
def Obligations.IllegalWordsStopTheEngine : Prop :=
  (∀ w : Word, IllegalWord w ↔ ∀ i, decode w ≠ .ok i) ∧
  ∀ (s s' : State) (w : Word), EngineMoves s s' → s.resetLine = false → s.runState = .run →
    s.pc.toNat < s.build.imemWords → Cells.read s.imem s.pc.toNat = some w → IllegalWord w →
    step s = .next (stopped 0x01 s')

/-- Example words of the spec's rules (30_encoding.md R74 and the rules of the families) decode to the
instructions they stand for. -/
def Obligations.ExampleWordsDecode : Prop :=
  decode 0x02000005 = .ok (.jmp 5) ∧ decode 0x03400010 = .ok (.br .lt 0x10) ∧
  decode 0x1110FFFF = .ok (.ldi 1 0xFFFF) ∧ decode 0x12300003 = .ok (.ldc 3 .n) ∧
  decode 0x20312000 = .ok (.add 3 1 2) ∧ decode 0x28210004 = .ok (.shl 2 1 4) ∧
  decode 0x31412300 = .ok (.modexp 4 1 2 3) ∧ decode 0x4720600A = .ok (.stdec 2 0x60 10) ∧
  decode 0x53310000 = .ok (.px 3 1) ∧ decode 0x58311000 = .ok (.pmul 3 1 1) ∧
  decode 0x61412001 = .ok (.sign 4 1 2 true) ∧ decode 0x63242000 = .ok (.recover 2 4 2)

/-- 20_memory.md R56, R50 and 30_encoding.md R75: in RUN the engine executes the instruction at PC. PC_RANGE
where PC is past IMEM; a written word is decoded and executed, or stops the engine; a word nobody wrote is some
word (a draw), decoded and executed in the same way. -/
def Obligations.StepRunsTheFetchedInstruction : Prop :=
  ∀ s s' : State, EngineMoves s s' → s.resetLine = false → s.runState = .run →
    (s.build.imemWords ≤ s.pc.toNat → step s = .next (stopped 0x02 s')) ∧
    (s.pc.toNat < s.build.imemWords →
      (∀ w, Cells.read s.imem s.pc.toNat = some w →
        (∀ i, decode w = .ok i → step s = exec i s') ∧
        (∀ e, decode w = .error e → step s = .next (stopped 0x01 s'))) ∧
      (Cells.read s.imem s.pc.toNat = none → ∃ w : Word,
        (∀ i, decode w = .ok i → step s = exec i (drew 1 s')) ∧
        (∀ e, decode w = .error e → step s = .next (stopped 0x01 (drew 1 s')))))

/-! ## The sequencer -/

/-- 46_sequencer.md R125 to R128: NOP, HALT, JMP and BR, with everything they leave unchanged. -/
def Obligations.ControlTransfer : Prop :=
  ∀ s : State,
    exec .nop s = .next { s with pc := s.pc + 1 } ∧
    exec .halt s = .next { s with runState := .idle, done := true } ∧
    ∀ target : BitVec 16,
      exec (.jmp target) s = .next { s with pc := target } ∧
      ∀ cond : Cond,
        (ConditionHolds s.flags cond.code.toNat → exec (.br cond target) s = .next { s with pc := target }) ∧
        (¬ ConditionHolds s.flags cond.code.toNat → exec (.br cond target) s = .next { s with pc := s.pc + 1 })

/-- 46_sequencer.md R129 to R131, on a legal build whose valid registers are within capacity: MOV copies, LDI
writes the sign-extended immediate, LDC writes the constant its selector names. -/
def Obligations.MovesAndConstants : Prop :=
  ∀ (a b : BReg) (s : State), s.build.Legal → RegistersFit s →
    (s.vb[b] = false → exec (.mov a b) s = .next (stopped 0x03 s)) ∧
    (s.vb[b] = true → exec (.mov a b) s = .next (wrote a s.b[b] s)) ∧
    (∀ imm : BitVec 16, exec (.ldi a imm) s = .next (wrote a imm.toInt s)) ∧
    exec (.ldc a .p) s = .next (wrote a s.build.curve.p s) ∧
    exec (.ldc a .a) s = .next (wrote a s.build.curve.a s) ∧
    exec (.ldc a .b) s = .next (wrote a s.build.curve.b s) ∧
    exec (.ldc a .n) s = .next (wrote a s.build.curve.n s) ∧
    exec (.ldc a .gx) s = .next (wrote a s.build.curve.gx s) ∧
    exec (.ldc a .gy) s = .next (wrote a s.build.curve.gy s)

/-! ## BigInt arithmetic, shifts and bits -/

/-- 40_bigint_arith.md R81 to R83: ADD, SUB and MUL write the exact result with Z and N, or stop with
UNINIT_OPERAND, then REG_OVERFLOW, and nothing else changes. -/
def Obligations.AddSubMulAreExact : Prop :=
  ∀ (a b c : BReg) (s : State),
    ∀ iv ∈ [(Instr.add a b c, s.b[b] + s.b[c]), (.sub a b c, s.b[b] - s.b[c]),
        (.mul a b c, s.b[b] * s.b[c])],
      (¬ Valid2 s b c → exec iv.1 s = .next (stopped 0x03 s)) ∧
      (Valid2 s b c → 2 ^ s.build.maxBits ≤ iv.2.natAbs → exec iv.1 s = .next (stopped 0x05 s)) ∧
      (Valid2 s b c → iv.2.natAbs < 2 ^ s.build.maxBits → exec iv.1 s = .next (wrote a iv.2 s))

/-- 40_bigint_arith.md R80, R84, R85: DIV and REM write the quotient and the remainder of the truncating
division, which meet x = q·y + r, |r| < |y| and r = 0 or r of the sign of x; DIVISION_BY_ZERO for y = 0. -/
def Obligations.DivRemTruncate : Prop :=
  ∀ (a b c : BReg) (s : State), RegistersFit s →
    (¬ Valid2 s b c → exec (.div a b c) s = .next (stopped 0x03 s) ∧
      exec (.rem a b c) s = .next (stopped 0x03 s)) ∧
    (Valid2 s b c → s.b[c] = 0 → exec (.div a b c) s = .next (stopped 0x11 s) ∧
      exec (.rem a b c) s = .next (stopped 0x11 s)) ∧
    (Valid2 s b c → s.b[c] ≠ 0 → ∃ q r : Int,
      s.b[b] = q * s.b[c] + r ∧ r.natAbs < s.b[c].natAbs ∧ (r = 0 ∨ r.sign = s.b[b].sign) ∧
      exec (.div a b c) s = .next (wrote a q s) ∧ exec (.rem a b c) s = .next (wrote a r s))

/-- 40_bigint_arith.md R86: CMP sets exactly one of LT, EQ and GT, by the order of the integers, and changes
nothing else. -/
def Obligations.CompareOrders : Prop :=
  ∀ (b c : BReg) (s : State),
    (¬ Valid2 s b c → exec (.cmp b c) s = .next (stopped 0x03 s)) ∧
    (Valid2 s b c → ∃ lt eq gt : Bool,
      (lt = true ↔ s.b[b] < s.b[c]) ∧ (eq = true ↔ s.b[b] = s.b[c]) ∧ (gt = true ↔ s.b[c] < s.b[b]) ∧
      lt.toNat + eq.toNat + gt.toNat = 1 ∧
      exec (.cmp b c) s =
        .next { s with flags := { s.flags with lt := lt, eq := eq, gt := gt }, pc := s.pc + 1 })

/-- 41_bigint_bitops.md R87, R88: SHL multiplies by 2^s and SHR divides by it, rounding down; UNINIT_OPERAND,
NEGATIVE_OPERAND, then, for SHL only, REG_OVERFLOW. -/
def Obligations.ShiftsScale : Prop :=
  ∀ (a b : BReg) (imm : BitVec 16) (s : State), RegistersFit s →
    (s.vb[b] = false → exec (.shl a b imm) s = .next (stopped 0x03 s) ∧
      exec (.shr a b imm) s = .next (stopped 0x03 s)) ∧
    (s.vb[b] = true → s.b[b] < 0 → exec (.shl a b imm) s = .next (stopped 0x07 s) ∧
      exec (.shr a b imm) s = .next (stopped 0x07 s)) ∧
    (s.vb[b] = true → 0 ≤ s.b[b] →
      (2 ^ s.build.maxBits ≤ s.b[b] * 2 ^ imm.toNat → exec (.shl a b imm) s = .next (stopped 0x05 s)) ∧
      (s.b[b] * 2 ^ imm.toNat < 2 ^ s.build.maxBits →
        exec (.shl a b imm) s = .next (wrote a (s.b[b] * 2 ^ imm.toNat) s)) ∧
      ∃ v : Int, v * 2 ^ imm.toNat ≤ s.b[b] ∧ s.b[b] < (v + 1) * 2 ^ imm.toNat ∧
        exec (.shr a b imm) s = .next (wrote a v s))

/-- 41_bigint_bitops.md R89 with 00_scope.md R16: BITLEN writes the least L with x < 2^L. -/
def Obligations.BitlenIsLeast : Prop :=
  ∀ (a b : BReg) (s : State), RegistersFit s →
    (s.vb[b] = false → exec (.bitlen a b) s = .next (stopped 0x03 s)) ∧
    (s.vb[b] = true → s.b[b] < 0 → exec (.bitlen a b) s = .next (stopped 0x07 s)) ∧
    (s.vb[b] = true → 0 ≤ s.b[b] → ∃ L : Nat, IsBitLength s.b[b].toNat L ∧
      exec (.bitlen a b) s = .next (wrote a L s))

/-- 41_bigint_bitops.md R90, R91 with 00_scope.md R16: BIT and BITI set T to floor(x / 2^i) mod 2 for every
index, and change nothing else. -/
def Obligations.BitExtraction : Prop :=
  ∀ (b c : BReg) (imm : BitVec 16) (s : State),
    (¬ Valid2 s b c → exec (.bit b c) s = .next (stopped 0x03 s)) ∧
    (Valid2 s b c → s.b[b] < 0 ∨ s.b[c] < 0 → exec (.bit b c) s = .next (stopped 0x07 s)) ∧
    (Valid2 s b c → 0 ≤ s.b[b] → 0 ≤ s.b[c] →
      exec (.bit b c) s = .next (wroteT (decide (s.b[b] / 2 ^ s.b[c].toNat % 2 = 1)) s)) ∧
    (s.vb[b] = false → exec (.biti b imm) s = .next (stopped 0x03 s)) ∧
    (s.vb[b] = true → s.b[b] < 0 → exec (.biti b imm) s = .next (stopped 0x07 s)) ∧
    (s.vb[b] = true → 0 ≤ s.b[b] →
      exec (.biti b imm) s = .next (wroteT (decide (s.b[b] / 2 ^ imm.toNat % 2 = 1)) s))

/-! ## Modular arithmetic -/

/-- 43_modular.md R103, R104: MOD writes the r in [0, m) that differs from x by a multiple of m;
DIVISION_BY_ZERO for m = 0, BAD_MODULUS for m < 0. -/
def Obligations.ModReduces : Prop :=
  ∀ (a b c : BReg) (s : State), RegistersFit s →
    (¬ Valid2 s b c → exec (.mod a b c) s = .next (stopped 0x03 s)) ∧
    (Valid2 s b c → s.b[c] = 0 → exec (.mod a b c) s = .next (stopped 0x11 s)) ∧
    (Valid2 s b c → s.b[c] < 0 → exec (.mod a b c) s = .next (stopped 0x08 s)) ∧
    (Valid2 s b c → 0 < s.b[c] → ∃ k r : Int, 0 ≤ r ∧ r < s.b[c] ∧ s.b[b] = r + k * s.b[c] ∧
      exec (.mod a b c) s = .next (wrote a r s))

/-- 43_modular.md R103, R105: MODEXP writes ((x mod m)^e) mod m, the power taken exactly; the checks in
order are UNINIT_OPERAND, DIVISION_BY_ZERO, BAD_MODULUS, NEGATIVE_OPERAND. -/
def Obligations.ModexpIsThePower : Prop :=
  ∀ (a b c d : BReg) (s : State), RegistersFit s →
    (¬ (Valid2 s b c ∧ s.vb[d] = true) → exec (.modexp a b c d) s = .next (stopped 0x03 s)) ∧
    (Valid2 s b c → s.vb[d] = true →
      (s.b[d] = 0 → exec (.modexp a b c d) s = .next (stopped 0x11 s)) ∧
      (s.b[d] < 0 → exec (.modexp a b c d) s = .next (stopped 0x08 s)) ∧
      (0 < s.b[d] → s.b[c] < 0 → exec (.modexp a b c d) s = .next (stopped 0x07 s)) ∧
      (0 < s.b[d] → 0 ≤ s.b[c] →
        exec (.modexp a b c d) s = .next (wrote a ((s.b[b] % s.b[d]) ^ s.b[c].toNat % s.b[d]) s)))

/-- 43_modular.md R103, R106 with 00_scope.md R17: MODINV writes the one v in [0, m) with x·v ≡ 1 (mod m);
NO_INVERSE where gcd(x mod m, m) ≠ 1. -/
def Obligations.ModinvIsTheInverse : Prop :=
  ∀ (a b c : BReg) (s : State), RegistersFit s →
    (¬ Valid2 s b c → exec (.modinv a b c) s = .next (stopped 0x03 s)) ∧
    (Valid2 s b c → s.b[c] = 0 → exec (.modinv a b c) s = .next (stopped 0x11 s)) ∧
    (Valid2 s b c → s.b[c] < 0 → exec (.modinv a b c) s = .next (stopped 0x08 s)) ∧
    (Valid2 s b c → 0 < s.b[c] → Int.gcd (s.b[b] % s.b[c]) s.b[c] ≠ 1 →
      exec (.modinv a b c) s = .next (stopped 0x12 s)) ∧
    (Valid2 s b c → 0 < s.b[c] → Int.gcd (s.b[b] % s.b[c]) s.b[c] = 1 →
      ∃ v : Int, 0 ≤ v ∧ v < s.b[c] ∧ s.b[b] * v % s.b[c] = 1 % s.b[c] ∧
        (∀ v' : Int, 0 ≤ v' → v' < s.b[c] → s.b[b] * v' % s.b[c] = 1 % s.b[c] → v' = v) ∧
        exec (.modinv a b c) s = .next (wrote a v s))

/-! ## Loads and stores -/

/-- 42_bigint_conversion.md R92, R95, R96: LDBE and LDLE write the positional value of the bytes at EA, most or
least significant byte first; MEM_RANGE past DMEM. Bytes nobody wrote are some bytes (20_memory.md R50). A
string of at most MAX_BITS bits always loads. -/
def Obligations.ByteLoads : Prop :=
  ∀ (a : BReg) (addr : BitVec 12) (len : BitVec 8) (s : State),
    (s.build.dmemBytes < addr.toNat + len.toNat →
      exec (.ldbe a addr len) s = .next (stopped 0x04 s) ∧
      exec (.ldle a addr len) s = .next (stopped 0x04 s)) ∧
    (addr.toNat + len.toNat ≤ s.build.dmemBytes →
      ∃ bytes : List Byte, bytes.length = len.toNat ∧ MayRead s.dmem addr.toNat bytes ∧
        LoadsValue (.ldbe a addr len) a (bigEndian bytes) s (drew len.toNat s) ∧
        LoadsValue (.ldle a addr len) a (littleEndian bytes) s (drew len.toNat s) ∧
        (8 * len.toNat ≤ s.build.maxBits →
          exec (.ldbe a addr len) s = .next (wrote a (bigEndian bytes) (drew len.toNat s)) ∧
          exec (.ldle a addr len) s = .next (wrote a (littleEndian bytes) (drew len.toNat s))))

/-- 42_bigint_conversion.md R92, R97, R98: STBE and STLE store the L bytes of x, most or least significant first,
with L = len8, or bytelen(x) where len8 = 0, and SLEN = L; UNINIT_OPERAND, NEGATIVE_OPERAND, MEM_RANGE,
BUF_OVERFLOW, in order. That a minimal width may pass the 255 bytes of 20_memory.md R59 is the model's choice
(log 28). -/
def Obligations.ByteStores : Prop :=
  ∀ (a : BReg) (addr : BitVec 12) (len : BitVec 8) (s : State) (L : Nat),
    ∀ iw ∈ [(Instr.stbe a addr len, fun j : Nat => L - 1 - j), (.stle a addr len, fun j => j)],
      (s.vb[a] = false → exec iw.1 s = .next (stopped 0x03 s)) ∧
      (s.vb[a] = true → s.b[a] < 0 → exec iw.1 s = .next (stopped 0x07 s)) ∧
      (s.vb[a] = true → 0 ≤ s.b[a] →
        (len = 0 → IsByteLength s.b[a].toNat L) → (len ≠ 0 → L = len.toNat) →
        (s.build.dmemBytes < addr.toNat + L → exec iw.1 s = .next (stopped 0x04 s)) ∧
        (addr.toNat + L ≤ s.build.dmemBytes → 256 ^ L ≤ s.b[a] → exec iw.1 s = .next (stopped 0x06 s)) ∧
        (addr.toNat + L ≤ s.build.dmemBytes → s.b[a] < 256 ^ L →
          ∃ m, exec iw.1 s = .next (stored m L s) ∧ SameOutside s.dmem m addr.toNat L ∧
            ∀ j, j < L → Cells.read m (addr.toNat + j) =
              some (BitVec.ofInt 8 (s.b[a] / 2 ^ (8 * iw.2 j) % 256))))

/-- 42_bigint_conversion.md R92, R93, R99, R101: LDHEX and LDDEC write the integer the string at EA denotes.
Where every byte was written the string is what stands there; other bytes are some bytes (20_memory.md R50). -/
def Obligations.StringLoads : Prop :=
  ∀ (a : BReg) (addr : BitVec 12) (len : BitVec 8) (s : State),
    ∀ ri ∈ [(Radix.hex, Instr.ldhex a addr len), (.dec, .lddec a addr len)],
      (s.build.dmemBytes < addr.toNat + len.toNat → exec ri.2 s = .next (stopped 0x04 s)) ∧
      (addr.toNat + len.toNat ≤ s.build.dmemBytes →
        (∀ str, str.length = len.toNat → Holds s.dmem addr.toNat str →
          LoadsString ri.1 ri.2 a str s (drew len.toNat s)) ∧
        ∃ str, str.length = len.toNat ∧ MayRead s.dmem addr.toNat str ∧
          LoadsString ri.1 ri.2 a str s (drew len.toNat s))

/-- 42_bigint_conversion.md R92, R94, R100, R102: STHEX and STDEC store the canonical string of any valid
register where it fits the buffer; UNINIT_OPERAND, MEM_RANGE of the whole buffer, BUF_OVERFLOW, in order. -/
def Obligations.StringStores : Prop :=
  ∀ (a : BReg) (addr : BitVec 12) (len : BitVec 8) (s : State),
    ∀ ri ∈ [(Radix.hex, Instr.sthex a addr len), (.dec, .stdec a addr len)],
      (s.vb[a] = false → exec ri.2 s = .next (stopped 0x03 s)) ∧
      (s.vb[a] = true → s.build.dmemBytes < addr.toNat + len.toNat → exec ri.2 s = .next (stopped 0x04 s)) ∧
      (s.vb[a] = true → addr.toNat + len.toNat ≤ s.build.dmemBytes →
        ∃ str, IsCanonical ri.1 s.b[a] str ∧
          (len.toNat < str.length → exec ri.2 s = .next (stopped 0x06 s)) ∧
          (str.length ≤ len.toNat → ∃ m, exec ri.2 s = .next (stored m str.length s) ∧
            Holds m addr.toNat str ∧ SameOutside s.dmem m addr.toNat str.length))

/-- 42_bigint_conversion.md R97, R98, R94, R102: a load of the SLEN bytes a store wrote gives the stored
integer back: LDBE after STBE, LDLE after STLE, LDHEX after STHEX, LDDEC after STDEC. -/
def Obligations.LoadInvertsStore : Prop :=
  ∀ (a d : BReg) (addr : BitVec 12) (len : BitVec 8) (s t : State), s.build.Legal → RegistersFit s →
    ∀ sl ∈ [(Instr.stbe a addr len, Instr.ldbe d addr), (.stle a addr len, .ldle d addr),
        (.sthex a addr len, .ldhex d addr), (.stdec a addr len, .lddec d addr)],
      exec sl.1 s = .next t → t.pc = s.pc + 1 → t.slen.toNat < 256 →
      exec (sl.2 (BitVec.ofNat 8 t.slen.toNat)) t = .next (wrote d s.b[a] (drew t.slen.toNat t))

/-! ## Points -/

/-- 44_ec_point.md R111 to R113, R107: PINF and PGEN write INF and G; PMK writes (x, y) exactly where
0 ≤ x < p, 0 ≤ y < p and y² ≡ x³ + a·x + b (mod p), else CURVE_MEMBERSHIP. -/
def Obligations.PointConstructors : Prop :=
  ∀ (a : PReg) (b c : BReg) (s : State),
    exec (.pinf a) s = .next (wrotePoint a .inf s) ∧
    exec (.pgen a) s = .next (wrotePoint a (.affine s.build.curve.gx s.build.curve.gy) s) ∧
    (¬ Valid2 s b c → exec (.pmk a b c) s = .next (stopped 0x03 s)) ∧
    (Valid2 s b c → IsOnCurve s.build.curve s.b[b] s.b[c] →
      exec (.pmk a b c) s = .next (wrotePoint a (.affine s.b[b] s.b[c]) s)) ∧
    (Valid2 s b c → ¬ IsOnCurve s.build.curve s.b[b] s.b[c] → exec (.pmk a b c) s = .next (stopped 0x13 s))

/-- 44_ec_point.md R114 to R116: PX and PY write a coordinate with Z and N, POINT_AT_INFINITY for INF; PISINF sets
T. On a legal build a point on the curve has coordinates within capacity. -/
def Obligations.PointReads : Prop :=
  ∀ (a : BReg) (b : PReg) (s : State), s.build.Legal → PointsOnCurve s →
    (s.vp[b] = false → exec (.px a b) s = .next (stopped 0x03 s) ∧
      exec (.py a b) s = .next (stopped 0x03 s) ∧ exec (.pisinf b) s = .next (stopped 0x03 s)) ∧
    (s.vp[b] = true → s.p[b] = .inf → exec (.px a b) s = .next (stopped 0x09 s) ∧
      exec (.py a b) s = .next (stopped 0x09 s) ∧ exec (.pisinf b) s = .next (wroteT true s)) ∧
    (s.vp[b] = true → ∀ x y, s.p[b] = .affine x y → exec (.px a b) s = .next (wrote a x s) ∧
      exec (.py a b) s = .next (wrote a y s) ∧ exec (.pisinf b) s = .next (wroteT false s))

/-- 44_ec_point.md R109, R117: PADD by the chord-and-tangent law, the slope given by its property
lam·(x2 − x1) ≡ y2 − y1, or for equal points lam·2·y1 ≡ 3·x1² + a (mod p). -/
def Obligations.PointAdditionLaw : Prop :=
  ∀ (a b c : PReg) (s : State), s.build.Legal → PointsOnCurve s →
    ((s.vp[b] = false ∨ s.vp[c] = false) → exec (.padd a b c) s = .next (stopped 0x03 s)) ∧
    (s.vp[b] = true → s.vp[c] = true →
      (s.p[b] = .inf → exec (.padd a b c) s = .next (wrotePoint a s.p[c] s)) ∧
      (s.p[c] = .inf → exec (.padd a b c) s = .next (wrotePoint a s.p[b] s)) ∧
      ∀ x1 y1 x2 y2, s.p[b] = .affine x1 y1 → s.p[c] = .affine x2 y2 →
        (x1 = x2 → (y1 + y2) % s.build.curve.p = 0 →
          exec (.padd a b c) s = .next (wrotePoint a .inf s)) ∧
        (x1 = x2 → (y1 + y2) % s.build.curve.p ≠ 0 → y1 = y2 ∧ ∃ lam : Int,
          (lam * (2 * y1) - (3 * x1 * x1 + s.build.curve.a)) % s.build.curve.p = 0 ∧
          exec (.padd a b c) s = .next (wrotePoint a (thirdPoint s.build.curve.p lam x1 y1 x2) s)) ∧
        (x1 ≠ x2 → ∃ lam : Int,
          (lam * (x2 - x1) - (y2 - y1)) % s.build.curve.p = 0 ∧
          exec (.padd a b c) s = .next (wrotePoint a (thirdPoint s.build.curve.p lam x1 y1 x2) s)))

/-- 44_ec_point.md R108, R118: PDBL by the tangent, the slope given by lam·2·y ≡ 3·x² + a (mod p); INF for INF and
for y = 0. -/
def Obligations.PointDoublingLaw : Prop :=
  ∀ (a b : PReg) (s : State), s.build.Legal → PointsOnCurve s →
    (s.vp[b] = false → exec (.pdbl a b) s = .next (stopped 0x03 s)) ∧
    (s.vp[b] = true →
      (s.p[b] = .inf → exec (.pdbl a b) s = .next (wrotePoint a .inf s)) ∧
      ∀ x y, s.p[b] = .affine x y →
        (y = 0 → exec (.pdbl a b) s = .next (wrotePoint a .inf s)) ∧
        (y ≠ 0 → ∃ lam : Int,
          (lam * (2 * y) - (3 * x * x + s.build.curve.a)) % s.build.curve.p = 0 ∧
          exec (.pdbl a b) s = .next (wrotePoint a (thirdPoint s.build.curve.p lam x y x) s)))

/-- 44_ec_point.md R110, R119: PMUL writes ecMul(k, P), the double-and-add of k's bits: 0 gives INF, a bit 0
doubles, a bit 1 doubles and adds. -/
def Obligations.ScalarMultiplication : Prop :=
  (∀ (a : PReg) (b : BReg) (c : PReg) (s : State),
    ((s.vb[b] = false ∨ s.vp[c] = false) → exec (.pmul a b c) s = .next (stopped 0x03 s)) ∧
    (s.vb[b] = true → s.vp[c] = true → s.b[b] < 0 → exec (.pmul a b c) s = .next (stopped 0x07 s)) ∧
    (s.vb[b] = true → s.vp[c] = true → 0 ≤ s.b[b] →
      exec (.pmul a b c) s = .next (wrotePoint a (ecMul s.build.curve s.b[b].toNat s.p[c]) s))) ∧
  ∀ (c : Config.Curve) (k : Nat) (pt : Point),
    ecMul c 0 pt = .inf ∧ ecMul c 1 pt = pt ∧ ecMul c k .inf = .inf ∧
    ecMul c (2 * k) pt = ecDbl c (ecMul c k pt) ∧
    ecMul c (2 * k + 1) pt = ecAdd c (ecDbl c (ecMul c k pt)) pt

/-- 44_ec_point.md R109: on a legal curve without a singular point (a premise R13 does not list, log 24), addition
keeps the curve and is commutative and associative with identity INF and inverse (x, −y mod p), and doubling adds a
point to itself. -/
def Obligations.PointsFormAnAbelianGroup : Prop :=
  ∀ c : Config.Curve, c.Legal → c.Nonsingular → ∀ p q r : Point,
    p.member c = true → q.member c = true → r.member c = true →
    (ecAdd c p q).member c = true ∧ ecAdd c p q = ecAdd c q p ∧
    ecAdd c (ecAdd c p q) r = ecAdd c p (ecAdd c q r) ∧
    ecAdd c .inf p = p ∧ ecAdd c p p = ecDbl c p ∧
    ∀ x y, p = .affine x y → ecAdd c p (.affine x (-y % c.p)) = .inf

/-- 44_ec_point.md R110: on a legal curve without a singular point (a premise R13 does not list, log 24) ecMul is
the group's multiple: it adds and multiplies in the scalar, and G has order exactly n. -/
def Obligations.ScalarsActOnTheGroup : Prop :=
  ∀ c : Config.Curve, c.Legal → c.Nonsingular →
    (∀ p : Point, p.member c = true → ∀ j k : Nat,
      ecMul c (j + k) p = ecAdd c (ecMul c j p) (ecMul c k p) ∧
      ecMul c (j * k) p = ecMul c j (ecMul c k p)) ∧
    ∀ k : Nat, ecMul c k (basePoint c) = ecMul c (k % c.n.toNat) (basePoint c) ∧
      (ecMul c k (basePoint c) = .inf ↔ c.n.toNat ∣ k)

/-! ## ECDSA -/

/-- 45_ecdsa.md R120: DIGZ writes the leftmost bitlen(n) bits of the big-endian digest, reduced mod n. -/
def Obligations.DigestReduction : Prop :=
  ∀ (a : BReg) (addr : BitVec 12) (len : BitVec 8) (s : State) (L : Nat), s.build.Legal →
    IsBitLength s.build.curve.n.toNat L →
    (s.build.dmemBytes < addr.toNat + len.toNat → exec (.digz a addr len) s = .next (stopped 0x04 s)) ∧
    (addr.toNat + len.toNat ≤ s.build.dmemBytes →
      ∃ bytes : List Byte, bytes.length = len.toNat ∧ MayRead s.dmem addr.toNat bytes ∧
        (L < 8 * len.toNat → exec (.digz a addr len) s = .next
          (wrote a ((bigEndian bytes / 2 ^ (8 * len.toNat - L) : Nat) % s.build.curve.n)
            (drew len.toNat s))) ∧
        (8 * len.toNat ≤ L → exec (.digz a addr len) s = .next
          (wrote a ((bigEndian bytes : Int) % s.build.curve.n) (drew len.toNat s))))

/-- 45_ecdsa.md R122, R121, 30_encoding.md R73, 10_state.md R45: SIGN on a legal build, for a group inside the
register file. -/
def Obligations.SignFollowsItsRule : Prop :=
  ∀ (a b c : BReg) (lows : Bool) (s : State), s.build.Legal → a.val ≤ 13 →
    (¬ Valid2 s b c → exec (.sign a b c lows) s = .next (stopped 0x03 s)) ∧
    (Valid2 s b c → ¬ InRange s.build.curve s.b[b] → exec (.sign a b c lows) s = .next (stopped 0x0A s)) ∧
    (Valid2 s b c → InRange s.build.curve s.b[b] → s.nonceValid = false →
      exec (.sign a b c lows) s = .next (waiting ⟨a, b, c, lows⟩ s)) ∧
    (Valid2 s b c → InRange s.build.curve s.b[b] → s.nonceValid = true →
      SignsWith (nonceSum s) a b c lows s (consumed s))

/-- 45_ecdsa.md R121: in NONCE_WAIT the engine keeps every piece of state while NONCE_VALID = 0, and goes on with
the SIGN it holds once NONCE_VALID = 1. -/
def Obligations.SignWaitsForItsNonce : Prop :=
  ∀ (s s' : State) (held : SignOperands), EngineMoves s s' → s.resetLine = false →
    s.runState = .nonceWait held →
    (s.nonceValid = false → step s = .next s') ∧
    (s.nonceValid = true →
      step s = exec (.sign held.a held.b held.c held.lows) { s' with runState := .run })

/-- 45_ecdsa.md R123, 30_encoding.md R73: VERIFY sets T to the Boolean of its rule; only UNINIT_OPERAND stops it. -/
def Obligations.VerifyFollowsItsRule : Prop :=
  ∀ (a : PReg) (b b1 c : BReg) (s : State), s.build.Legal → b1.val = b.val + 1 →
    (¬ (s.vp[a] = true ∧ Valid2 s b b1 ∧ s.vb[c] = true) →
      exec (.verify a b c) s = .next (stopped 0x03 s)) ∧
    (s.vp[a] = true → Valid2 s b b1 → s.vb[c] = true →
      (Accepts s.build.curve s.p[a] s.b[b] s.b[b1] (s.b[c] % s.build.curve.n) →
        exec (.verify a b c) s = .next (wroteT true s)) ∧
      (¬ Accepts s.build.curve s.p[a] s.b[b] s.b[b1] (s.b[c] % s.build.curve.n) →
        exec (.verify a b c) s = .next (wroteT false s)))

/-- 45_ecdsa.md R124, 30_encoding.md R73: RECOVER's checks in order, and the key r⁻¹(s·R − z·G), written only where
it verifies. -/
def Obligations.RecoverFollowsItsRule : Prop :=
  ∀ (a : PReg) (b b1 b2 c : BReg) (s : State) (r sg v z n : Int), s.build.Legal →
    b1.val = b.val + 1 → b2.val = b.val + 2 → r = s.b[b] → sg = s.b[b1] → v = s.b[b2] →
    n = s.build.curve.n → z = s.b[c] % n →
    (¬ (Valid2 s b b1 ∧ Valid2 s b2 c) → exec (.recover a b c) s = .next (stopped 0x03 s)) ∧
    (Valid2 s b b1 → Valid2 s b2 c →
      (¬ (InRange s.build.curve r ∧ InRange s.build.curve sg) →
        exec (.recover a b c) s = .next (stopped 0x14 s)) ∧
      (InRange s.build.curve r → InRange s.build.curve sg →
        (¬ (0 ≤ v ∧ v ≤ 3 ∧ r + v / 2 * n < s.build.curve.p ∧
            ∃ y, IsRoot s.build.curve (r + v / 2 * n) (v % 2) y) →
          exec (.recover a b c) s = .next (stopped 0x15 s)) ∧
        (0 ≤ v → v ≤ 3 → r + v / 2 * n < s.build.curve.p →
          ∀ y, IsRoot s.build.curve (r + v / 2 * n) (v % 2) y → ∃ (ri : Int) (q : Point), r * ri % n = 1 ∧
            q = ecAdd s.build.curve
              (ecMul s.build.curve (-(z * ri) % n).toNat (basePoint s.build.curve))
              (ecMul s.build.curve (sg * ri % n).toNat (.affine (r + v / 2 * n) y)) ∧
            (¬ Accepts s.build.curve q r sg z → exec (.recover a b c) s = .next (stopped 0x16 s)) ∧
            (Accepts s.build.curve q r sg z → exec (.recover a b c) s = .next (wrotePoint a q s)))))

/-- 45_ecdsa.md R122, R123: on a legal build whose curve has no singular point (a premise R13 does not list, log
24), whatever SIGN writes for a key d verifies under d·G, with low-s or without, where the result group does not
overwrite z. -/
def Obligations.SignedMessagesVerify : Prop :=
  ∀ (a b c : BReg) (lows : Bool) (q : PReg) (s t : State), s.build.Legal → s.build.curve.Nonsingular →
    exec (.sign a b c lows) s = .next t → t.pc = s.pc + 1 → c.val < a.val ∨ a.val + 2 < c.val →
    s.vp[q] = true → s.p[q] = ecMul s.build.curve s.b[b].toNat (basePoint s.build.curve) →
    exec (.verify q a c) t = .next (wroteT true t)

/-- 45_ecdsa.md R124: on such a build with p ≤ 2n, so that one bit of v tells R.x from r (the premises of log 24),
RECOVER of what SIGN wrote for a key d gives d·G, where the result group does not overwrite z. -/
def Obligations.RecoverReturnsTheSigner : Prop :=
  ∀ (a b c : BReg) (lows : Bool) (q : PReg) (s t : State), s.build.Legal → s.build.curve.Nonsingular →
    s.build.curve.p ≤ 2 * s.build.curve.n →
    exec (.sign a b c lows) s = .next t → t.pc = s.pc + 1 → c.val < a.val ∨ a.val + 2 < c.val →
    exec (.recover q a c) t =
      .next (wrotePoint q (ecMul s.build.curve s.b[b].toNat (basePoint s.build.curve)) t)

/-! ## What every instruction does and leaves alone -/

/-- 70_reset_and_hazards.md R158, 60_exceptions.md R149, 20_memory.md R52: every instruction ends in a next state, no
step faults, and a step refuses exactly where the next turn is a host access outside the interface. That accesses
come as turns is the model's (log 6). -/
def Obligations.EveryStepEnds : Prop :=
  (∀ (i : Instr) (s : State), ∃ t, exec i s = .next t) ∧
  ∀ s : State,
    (AccessOutsideInterface s → step s = .refused .hostAccessOutsideInterface) ∧
    (¬ AccessOutsideInterface s → ∃ t, step s = .next t)

/-- 60_exceptions.md R134, R132: an instruction that raises an error leaves RUNSTATE = IDLE, ERR, ERRCODE and ERRPC
and nothing else, but for the nonce a SIGN consumed; the code is one of those the instruction can raise. A fetch past
IMEM does the same with PC_RANGE. -/
def Obligations.ErrorsArePrecise : Prop :=
  (∀ (i : Instr) (s t : State), i.wellFormed = true → Inv s → s.err = false → exec i s = .next t →
    t.err = true →
    t.errCode ∈ errorsOf i ∧
    ∃ u : State, t = stopped t.errCode u ∧
      ((∃ k, u = drew k s) ∨
       (u = consumed s ∧ s.nonceValid = true ∧ t.errCode = 0x0B ∧ ∃ a b c lows, i = .sign a b c lows))) ∧
  ∀ s s' : State, EngineMoves s s' → s.resetLine = false → s.runState = .run →
    s.build.imemWords ≤ s.pc.toNat → step s = .next (stopped 0x02 s')

/-- 10_state.md R28, R27: an instruction of the ZN list that completes leaves its result in a valid register with Z
and N of that result; no other instruction changes Z or N, SIGN among them; only CMP changes LT, EQ, GT; only
BIT, BITI, PISINF and VERIFY change T; an instruction that raises an error changes no flag. -/
def Obligations.FlagWriters : Prop :=
  ∀ (i : Instr) (s t : State), s.err = false → exec i s = .next t →
    (t.err = true → t.flags = s.flags) ∧
    (∀ a, znDestination i = some a → t.err = false →
      t.vb[a] = true ∧ t.flags.z = decide (t.b[a] = 0) ∧ t.flags.n = decide (t.b[a] < 0)) ∧
    (znDestination i = none → t.flags.z = s.flags.z ∧ t.flags.n = s.flags.n) ∧
    ((∀ b c, i ≠ .cmp b c) → t.flags.lt = s.flags.lt ∧ t.flags.eq = s.flags.eq ∧ t.flags.gt = s.flags.gt) ∧
    (writesT i = false → t.flags.t = s.flags.t)

/-- 00_scope.md R4, 10_state.md R22, R25: an instruction changes no register but its destinations, and makes none
invalid. -/
def Obligations.RegisterFrame : Prop :=
  ∀ (i : Instr) (s t : State), i.wellFormed = true → exec i s = .next t →
    (∀ r : BReg, ¬ writesB i r → t.b[r] = s.b[r] ∧ t.vb[r] = s.vb[r]) ∧
    (∀ r : PReg, pointDestination i ≠ some r → t.p[r] = s.p[r] ∧ t.vp[r] = s.vp[r]) ∧
    (∀ r : BReg, s.vb[r] = true → t.vb[r] = true) ∧ (∀ r : PReg, s.vp[r] = true → t.vp[r] = true)

/-- 20_memory.md R48, R49, R66, 60_exceptions.md R143, 10_state.md R43: no instruction writes IMEM, a CSR the host
sets, HWERR or the reset line; only SIGN touches the nonce port; only a store that completes writes DMEM, SLEN
bytes at its address, and SLEN. -/
def Obligations.MemoryAndPortFrame : Prop :=
  ∀ (i : Instr) (s t : State), exec i s = .next t →
    t.build = s.build ∧ t.imem = s.imem ∧ t.startPc = s.startPc ∧ t.irqEn = s.irqEn ∧ t.hwErr = s.hwErr ∧
    t.resetLine = s.resetLine ∧ t.inputs = s.inputs ∧ t.reads = s.reads ∧
    ((∀ a b c lows, i ≠ .sign a b c lows) → t.nonceW = s.nonceW ∧ t.nonceValid = s.nonceValid) ∧
    (storesAt i = none → t.dmem = s.dmem ∧ t.slen = s.slen) ∧
    (∀ addr, storesAt i = some addr → s.build.Legal →
      (t.dmem = s.dmem ∧ t.slen = s.slen) ∨
      (t.pc = s.pc + 1 ∧ SameOutside s.dmem t.dmem addr t.slen.toNat ∧
        addr + t.slen.toNat ≤ s.build.dmemBytes ∧
        ∀ j, j < t.slen.toNat → (Cells.read t.dmem (addr + j)).isSome = true))

/-- 10_state.md R29: PC after an instruction. -/
def Obligations.ProgramCounterRule : Prop :=
  ∀ (i : Instr) (s t : State), s.err = false → exec i s = .next t →
    (t.err = true → t.pc = s.pc ∧ t.errPc = t.pc) ∧
    (t.err = false → match i with
      | .jmp target => t.pc = target
      | .br cond target =>
        (ConditionHolds s.flags cond.code.toNat ∧ t.pc = target) ∨
        (¬ ConditionHolds s.flags cond.code.toNat ∧ t.pc = s.pc + 1)
      | .halt => t.pc = s.pc
      | .sign a b c lows =>
        (t.runState = .nonceWait ⟨a, b, c, lows⟩ ∧ t.pc = s.pc) ∨
        (t.runState = s.runState ∧ t.pc = s.pc + 1)
      | _ => t.pc = s.pc + 1)

/-! ## The machine -/

/-- 10_state.md R30: a step changes RUNSTATE only by START, HALT, an error, ABORT, a SIGN that finds no nonce, a
nonce that comes, and reset (70_reset_and_hazards.md R151). By 45_ecdsa.md R121 the engine returns to RUN and
consumes the nonce in one step; that this is the engine's next step, not the host's write, is log 10, and that the
attempt is part of it, so that NONCE_RANGE or a retry ends that same step in IDLE or NONCE_WAIT, is log 8. -/
def Obligations.RunStateTransitions : Prop :=
  ∀ s t : State, Inv s → step s = .next t → t.runState ≠ s.runState →
    (t.runState = .idle ∧ (t.done = true ∨ t.err = true ∨ ∃ rest, s.inputs = .assertReset :: rest)) ∨
    (s.runState = .idle ∧ t.runState = .run ∧ t.pc = s.startPc ∧ ∃ u rest,
      s.inputs = .write 0x10 .word u :: rest ∧ u.getLsbD 0 = true) ∨
    (s.runState = .run ∧ ∃ held, t.runState = .nonceWait held ∧ t.nonceValid = false) ∨
    (∃ held, s.runState = .nonceWait held ∧ t.runState = .run ∧ s.nonceValid = true ∧ t.nonceValid = false)

/-- The invariants of Sys2Proof/Safety.lean together: registers within capacity (10_state.md R22), points on the
curve (R26), memories in their one form, BUSY clean (60_exceptions.md R137), known error codes (R132), a held SIGN
inside the register file (30_encoding.md R73), reset values while reset is asserted (70_reset_and_hazards.md R151).
Of these the model's own are the canonical lists (log 13), the operands a SIGN holds (log 9), the reset level (log
12), and, within the reset values, 0 and INF in the invalid registers, which R152 leaves unspecified (logs 4, 5). -/
def Obligations.StepKeepsTheInvariant : Prop :=
  ∀ s t : State, Inv s → step s = .next t → Inv t

/-- The reset state meets the invariants. -/
def Obligations.ResetMeetsTheInvariant : Prop := Inv State.reset

/-- 10_state.md R26: every valid point register holds INF or a point on the curve after every step, and no step but
one of the named instructions, or reset, changes a point register. -/
def Obligations.PointsStayOnTheCurve : Prop :=
  (∀ s t : State, s.build.Legal → PointsOnCurve s → step s = .next t → PointsOnCurve t) ∧
  (∀ (i : Instr) (s t : State), pointDestination i = none → exec i s = .next t → t.p = s.p ∧ t.vp = s.vp) ∧
  ∀ (s t : State) (turn : Turn), turn ≠ .engine → turn ≠ .assertReset → step (facing turn s) = .next t →
    t.p = s.p ∧ t.vp = s.vp

/-- 10_state.md R23, R25: what an invalid register holds never matters: two states that differ only there step alike
and differ only there afterwards. The reset contents the model chose (logs 4 and 5) are of no effect. -/
def Obligations.InvalidContentsNeverMatter : Prop :=
  ∀ s s' : State, SameButInvalid s s' →
    (∀ t, step s = .next t → ∃ t', step s' = .next t' ∧ SameButInvalid t t') ∧
    (∀ r, step s = .refused r → step s' = .refused r)

/-- 00_scope.md R11: no step depends on DIGIT_BITS: the next state is the same for every digit width, but for
CONFIG0[23:16] where the host reads CONFIG0. -/
def Obligations.DigitWidthNeverMatters : Prop :=
  ∀ (s : State) (k : Nat),
    (∀ r, step s = .refused r → step (withDigitBits k s) = .refused r) ∧
    ∀ t, step s = .next t →
      ((∀ w, s.inputs.head? ≠ some (.read 0x4 w)) → step (withDigitBits k s) = .next (withDigitBits k t)) ∧
      (∀ w, s.inputs.head? = some (.read 0x4 w) → ∃ u u' : Word,
        t.reads = u :: s.reads ∧ u &&& 0xFF00FFFF = u' &&& 0xFF00FFFF ∧
        step (withDigitBits k s) = .next (withDigitBits k { t with reads := u' :: s.reads }))

/-- 70_reset_and_hazards.md R152: the value of every piece of state after reset, and what the host then reads. -/
def Obligations.ResetState : Prop :=
  (∀ r : BReg, State.reset.vb[r] = false) ∧ (∀ r : PReg, State.reset.vp[r] = false) ∧
  State.reset.flags = ⟨false, false, false, false, false, false⟩ ∧ State.reset.pc = 0 ∧
  State.reset.runState = .idle ∧ State.reset.busy = false ∧ State.reset.nonceReq = false ∧
  State.reset.done = false ∧ State.reset.err = false ∧ State.reset.hwErr = false ∧
  State.reset.errCode = 0 ∧ State.reset.errPc = 0 ∧ State.reset.startPc = 0 ∧ State.reset.irqEn = 0 ∧
  State.reset.slen = 0 ∧ (∀ i : Fin 8, State.reset.nonceW[i] = 0) ∧ State.reset.nonceValid = false ∧
  State.reset.irq = false ∧ State.reset.imem = [] ∧ State.reset.dmem = [] ∧
  (∀ o ∈ [0x10, 0x14, 0x18, 0x1C, 0x20, 0x24, 0x28, 0x2C, 0x30, 0x34, 0x40, 0x5C, 0x60],
    State.reset.csrRead o = 0) ∧
  State.reset.csrRead 0x0 = 0x4C430100 ∧ State.reset.csrRead 0x4 = 0x00400200 ∧
  State.reset.csrRead 0x8 = 0x10000400

/-- 70_reset_and_hazards.md R151: asserting reset in any state gives every piece of state its reset value and keeps
both memories; host accesses then have no effect and read 0; releasing it changes nothing else. -/
def Obligations.ResetFromAnyState : Prop :=
  ∀ (s t : State), step (facing .assertReset s) = .next t →
    t.build = s.build ∧ (∀ r : BReg, t.vb[r] = false) ∧ (∀ r : PReg, t.vp[r] = false) ∧
    t.flags = ⟨false, false, false, false, false, false⟩ ∧ t.pc = 0 ∧ t.runState = .idle ∧
    t.done = false ∧ t.err = false ∧ t.hwErr = false ∧ t.errCode = 0 ∧ t.errPc = 0 ∧ t.startPc = 0 ∧
    t.irqEn = 0 ∧ t.slen = 0 ∧ (∀ i : Fin 8, t.nonceW[i] = 0) ∧ t.nonceValid = false ∧ t.irq = false ∧
    t.imem = s.imem ∧ t.dmem = s.dmem ∧ t.inputs = s.inputs ∧
    step (facing .releaseReset t) = .next { t with resetLine := false } ∧
    step (facing .engine t) = .next t ∧
    ∀ offset : BitVec 18, offset.toNat % 4 = 0 →
      (∀ u, step (facingWrite offset u t) = .next t) ∧
      step (facing (.read offset .word) t) = .next (gaveHost 0 t)

/-- 60_exceptions.md R150: a step that ends a run, other than by reset, ends it normally, by a HALT at PC; by an
error at PC that the fetched instruction (R132, R134) or the waiting SIGN raised; or by the host's ABORT (R138). A
word nobody wrote is some word (20_memory.md R50), so it may be the HALT or raise the error. -/
def Obligations.RunsEndInOneOfThreeWays : Prop :=
  ∀ s t : State, Inv s → s.busy = true → step s = .next t → t.busy = false →
    (∀ rest, s.inputs ≠ .assertReset :: rest) →
    t.pc = s.pc ∧
    ((NormalEnd t ∧ (∃ u, EngineMoves s u) ∧ MayFetch s 0x01000000) ∨
     (ErrorEnd t ∧ (∃ u, EngineMoves s u) ∧ ErrorArises s t.errCode) ∨
     (AbortedEnd t ∧ ∃ u rest, s.inputs = .write 0x10 .word u :: rest ∧ u.getLsbD 1 = true))

/-- 10_state.md R35, 60_exceptions.md R137, R138, R139: every write of CTRL, by the two action bits and BUSY;
it reads 0. -/
def Obligations.StartAndAbort : Prop :=
  ∀ (s : State) (u : Word), s.resetLine = false →
    (s.busy = false → u.getLsbD 0 = true → step (facingWrite 0x10 u s) = .next
      { s with pc := s.startPc, done := false, err := false, errCode := 0, errPc := 0, runState := .run }) ∧
    (s.busy = true → u.getLsbD 1 = true → step (facingWrite 0x10 u s) = .next (stopped 0x0C s)) ∧
    (s.busy = true → u.getLsbD 1 = false → u.getLsbD 0 = true →
      step (facingWrite 0x10 u s) = .next { s with hwErr := true }) ∧
    ((s.busy = false ∨ u.getLsbD 1 = false) → u.getLsbD 0 = false → step (facingWrite 0x10 u s) = .next s) ∧
    step (facing (.read 0x10 .word) s) = .next (gaveHost 0 s)

/-- 10_state.md R36, R37, R38: STATUS is cleared by ones, IRQ_EN and START_PC are stored, at any time; the host reads
them back as bits. -/
def Obligations.StatusAndEnables : Prop :=
  ∀ (s : State) (u : Word), s.resetLine = false →
    step (facingWrite 0x14 u s) = .next
      { s with done := s.done && !u.getLsbD 1, err := s.err && !u.getLsbD 2,
               hwErr := s.hwErr && !u.getLsbD 4 } ∧
    step (facingWrite 0x18 u s) = .next { s with irqEn := BitVec.ofNat 3 u.toNat } ∧
    step (facingWrite 0x1C u s) = .next { s with startPc := BitVec.ofNat 16 u.toNat } ∧
    ∃ status : Word, step (facing (.read 0x14 .word) s) = .next (gaveHost status s) ∧
      status.toNat < 32 ∧ status.getLsbD 0 = s.busy ∧ status.getLsbD 1 = s.done ∧
      status.getLsbD 2 = s.err ∧ (status.getLsbD 3 = true ↔ ∃ held, s.runState = .nonceWait held) ∧
      status.getLsbD 4 = s.hwErr ∧
    step (facing (.read 0x18 .word) s) = .next (gaveHost (BitVec.ofNat 32 s.irqEn.toNat) s) ∧
    step (facing (.read 0x1C .word) s) = .next (gaveHost (BitVec.ofNat 32 s.startPc.toNat) s)

/-- 10_state.md R32, R33, R34: ID, CONFIG0 and CONFIG1 on a legal build, in every state, and they ignore writes. -/
def Obligations.IdentityRegisters : Prop :=
  ∀ s : State, s.resetLine = false → s.build.Legal →
    (∃ id config0 config1 : Word,
      step (facing (.read 0x0 .word) s) = .next (gaveHost id s) ∧
      step (facing (.read 0x4 .word) s) = .next (gaveHost config0 s) ∧
      step (facing (.read 0x8 .word) s) = .next (gaveHost config1 s) ∧
      id = 0x4C430100 ∧
      config0.toNat = s.build.maxBits + s.build.digitBits * 2 ^ 16 ∧
      config1.toNat = s.build.imemWords + s.build.dmemBytes * 2 ^ 16) ∧
    ∀ u, step (facingWrite 0x0 u s) = .next s ∧ step (facingWrite 0x4 u s) = .next s ∧
      step (facingWrite 0x8 u s) = .next s

/-- 10_state.md R39 to R44: PC, FLAGS, SLEN and VALID read exactly while IDLE, ERRCODE and ERRPC always; none can be
written. -/
def Obligations.ResultRegisters : Prop :=
  ∀ s : State, s.resetLine = false →
    (s.busy = false → ∃ flags valid : Word,
      step (facing (.read 0x20 .word) s) = .next (gaveHost (BitVec.ofNat 32 s.pc.toNat) s) ∧
      step (facing (.read 0x2C .word) s) = .next (gaveHost flags s) ∧
      step (facing (.read 0x30 .word) s) = .next (gaveHost (BitVec.ofNat 32 s.slen.toNat) s) ∧
      step (facing (.read 0x34 .word) s) = .next (gaveHost valid s) ∧
      flags.toNat < 64 ∧ flags.getLsbD 0 = s.flags.z ∧ flags.getLsbD 1 = s.flags.n ∧
      flags.getLsbD 2 = s.flags.lt ∧ flags.getLsbD 3 = s.flags.eq ∧ flags.getLsbD 4 = s.flags.gt ∧
      flags.getLsbD 5 = s.flags.t ∧
      valid.toNat < 2 ^ 24 ∧ (∀ r : BReg, valid.getLsbD r.val = s.vb[r]) ∧
      (∀ r : PReg, valid.getLsbD (16 + r.val) = s.vp[r])) ∧
    step (facing (.read 0x24 .word) s) = .next (gaveHost (BitVec.ofNat 32 s.errCode.toNat) s) ∧
    step (facing (.read 0x28 .word) s) = .next (gaveHost (BitVec.ofNat 32 s.errPc.toNat) s) ∧
    ∀ u, ∀ o ∈ [0x20, 0x24, 0x28, 0x2C, 0x30, 0x34], step (facingWrite o u s) = .next s

/-- 60_exceptions.md R136: the interrupt output is a function of STATUS and IRQ_EN, and nothing else. -/
def Obligations.InterruptLine : Prop :=
  ∀ s : State, s.irq = true ↔
    (s.done = true ∧ s.irqEn.getLsbD 0 = true) ∨ (s.err = true ∧ s.irqEn.getLsbD 1 = true) ∨
    ((∃ held, s.runState = .nonceWait held) ∧ s.irqEn.getLsbD 2 = true)

/-- 10_state.md R45, R46, 60_exceptions.md R139: the nonce words take a write while NONCE_VALID = 0 and set HWERR
otherwise, BUSY or not, and read 0; NONCE_VALID is set by a 1 and only by it, and reads back. -/
def Obligations.NoncePort : Prop :=
  ∀ (s : State) (u : Word), s.resetLine = false →
    (∀ i : Fin 8,
      (s.nonceValid = false → step (facingWrite (BitVec.ofNat 18 (0x40 + 4 * i.val)) u s) =
        .next { s with nonceW := s.nonceW.set i.val u i.isLt }) ∧
      (s.nonceValid = true → step (facingWrite (BitVec.ofNat 18 (0x40 + 4 * i.val)) u s) =
        .next { s with hwErr := true }) ∧
      step (facing (.read (BitVec.ofNat 18 (0x40 + 4 * i.val)) .word) s) = .next (gaveHost 0 s)) ∧
    (u.getLsbD 0 = true → step (facingWrite 0x60 u s) = .next { s with nonceValid := true }) ∧
    (u.getLsbD 0 = false → step (facingWrite 0x60 u s) = .next s) ∧
    step (facing (.read 0x60 .word) s) =
      .next (gaveHost (BitVec.ofNat 32 s.nonceValid.toNat) s)

/-- 20_memory.md R51, R53, R55, 60_exceptions.md R139: the DMEM window. While IDLE a write sets the four bytes of
the word, least significant first, and a read gives each byte that was written in its place; while BUSY a write
only sets HWERR and a read gives some word with no effect. -/
def Obligations.DmemWindow : Prop :=
  ∀ (s : State) (w : Nat) (u : Word) (offset : BitVec 18), s.resetLine = false →
    4 * w < s.build.dmemBytes → 4 * w < 0x1000 → offset = BitVec.ofNat 18 (0x8000 + 4 * w) →
    (s.busy = false → ∃ m, step (facingWrite offset u s) = .next { s with dmem := m } ∧
      SameOutside s.dmem m (4 * w) 4 ∧
      ∀ j, j < 4 → Cells.read m (4 * w + j) = some (u.extractLsb' (8 * j) 8)) ∧
    (s.busy = true → step (facingWrite offset u s) = .next { s with hwErr := true }) ∧
    (s.busy = false → Holds s.dmem (4 * w) [u.extractLsb' 0 8, u.extractLsb' 8 8, u.extractLsb' 16 8,
      u.extractLsb' 24 8] → step (facing (.read offset .word) s) = .next (gaveHost u s)) ∧
    ∃ v, step (facing (.read offset .word) s) = .next (gaveHost v s) ∧
      (s.busy = false → ∀ j, j < 4 → ∀ x, Cells.read s.dmem (4 * w + j) = some x → v.extractLsb' (8 * j) 8 = x)

/-- 20_memory.md R51, R54, R55, 60_exceptions.md R139: the IMEM window, word for word; while BUSY a write only sets
HWERR. -/
def Obligations.ImemWindow : Prop :=
  ∀ (s : State) (i : Nat) (u : Word) (offset : BitVec 18), s.resetLine = false →
    i < s.build.imemWords → i < 0x4000 → offset = BitVec.ofNat 18 (0x10000 + 4 * i) →
    (s.busy = false → ∃ m, step (facingWrite offset u s) = .next { s with imem := m } ∧
      Cells.read m i = some u ∧ ∀ i', i' ≠ i → Cells.read m i' = Cells.read s.imem i') ∧
    (s.busy = true → step (facingWrite offset u s) = .next { s with hwErr := true }) ∧
    (s.busy = false → Cells.read s.imem i = some u →
      step (facing (.read offset .word) s) = .next (gaveHost u s)) ∧
    ∃ v, step (facing (.read offset .word) s) = .next (gaveHost v s)

/-- 20_memory.md R51, 10_state.md R31: every other offset of the host space, and every CSR offset the table does not
list, reads 0 and ignores writes, HWERR among the rest. -/
def Obligations.UnmappedOffsets : Prop :=
  ∀ (s : State) (offset : BitVec 18) (u : Word), s.resetLine = false → offset.toNat % 4 = 0 →
    (offset.toNat ∈ [0x0C, 0x38, 0x3C] ∨ (0x64 ≤ offset.toNat ∧ offset.toNat < 0x8000) ∨
      (0x9000 ≤ offset.toNat ∧ offset.toNat < 0x10000) ∨ 0x20000 ≤ offset.toNat ∨
      (0x8000 ≤ offset.toNat ∧ offset.toNat < 0x9000 ∧ s.build.dmemBytes ≤ offset.toNat - 0x8000) ∨
      (0x10000 ≤ offset.toNat ∧ offset.toNat < 0x20000 ∧
        s.build.imemWords ≤ (offset.toNat - 0x10000) / 4)) →
    step (facingWrite offset u s) = .next s ∧
    step (facing (.read offset .word) s) = .next (gaveHost 0 s)

end Obligations
end

