-- ==== Sys2Proof/Laws/Encoding.lean ====
section
/-! SUPPORT. The fields of a word in each format (30_encoding.md R69): what the decoder's field functions
read from a word the encoder's format functions make, and how a mask acts on a format field by field. -/

namespace Sys2Proof

section Formats
variable (op : BitVec 8) (a b c d : BitVec 4) (f len : BitVec 8) (imm : BitVec 16) (addr : BitVec 12)

/-! ## The opcode byte -/

@[simp] theorem opField_rFormat : opField (rFormat op a b c d f) = op := by
  ext i h
  simp [opField, rFormat]
  grind

@[simp] theorem opField_iFormat : opField (iFormat op a b imm) = op := by
  ext i h
  simp [opField, iFormat]
  grind

@[simp] theorem opField_mFormat : opField (mFormat op a addr len) = op := by
  ext i h
  simp [opField, mFormat]
  grind

/-- The B format is the I format with a zero b field. -/
theorem bFormat_eq_iFormat : bFormat op a imm = iFormat op a 0#4 imm := rfl

/-! ## The register fields -/

theorem extractA_rFormat : (rFormat op a b c d f).extractLsb' 20 4 = a := by
  ext i h
  simp [rFormat]
  grind

theorem extractB_rFormat : (rFormat op a b c d f).extractLsb' 16 4 = b := by
  ext i h
  simp [rFormat]
  grind

theorem extractC_rFormat : (rFormat op a b c d f).extractLsb' 12 4 = c := by
  ext i h
  simp [rFormat]
  grind

theorem extractD_rFormat : (rFormat op a b c d f).extractLsb' 8 4 = d := by
  ext i h
  simp [rFormat]
  grind

theorem extractA_iFormat : (iFormat op a b imm).extractLsb' 20 4 = a := by
  ext i h
  simp [iFormat]
  grind

theorem extractB_iFormat : (iFormat op a b imm).extractLsb' 16 4 = b := by
  ext i h
  simp [iFormat]
  grind

theorem extractA_mFormat : (mFormat op a addr len).extractLsb' 20 4 = a := by
  ext i h
  simp [mFormat]
  grind

/-! ## The other fields -/

@[simp] theorem fieldImm_iFormat : fieldImm (iFormat op a b imm) = imm := by
  ext i h
  simp [fieldImm, iFormat]
  grind

@[simp] theorem fieldAddr_mFormat : fieldAddr (mFormat op a addr len) = addr := by
  ext i h
  simp [fieldAddr, mFormat]
  grind

@[simp] theorem fieldLen_mFormat : fieldLen (mFormat op a addr len) = len := by
  ext i h
  simp [fieldLen, mFormat]
  grind

/-! ## Masks act field by field -/

theorem rFormat_and (op' : BitVec 8) (a' b' c' d' : BitVec 4) (f' : BitVec 8) :
    rFormat op a b c d f &&& rFormat op' a' b' c' d' f' =
      rFormat (op &&& op') (a &&& a') (b &&& b') (c &&& c') (d &&& d') (f &&& f') := by
  ext i h
  simp [rFormat]
  grind

theorem iFormat_and (op' : BitVec 8) (a' b' : BitVec 4) (imm' : BitVec 16) :
    iFormat op a b imm &&& iFormat op' a' b' imm' =
      iFormat (op &&& op') (a &&& a') (b &&& b') (imm &&& imm') := by
  ext i h
  simp [iFormat]
  grind

theorem mFormat_and (op' : BitVec 8) (a' : BitVec 4) (addr' : BitVec 12) (len' : BitVec 8) :
    mFormat op a addr len &&& mFormat op' a' addr' len' =
      mFormat (op &&& op') (a &&& a') (addr &&& addr') (len &&& len') := by
  ext i h
  simp [mFormat]
  grind

end Formats

/-- A point register's field keeps its top bit 0 (R71). -/
theorem pField_and_seven (r : PReg) : pField r &&& 0x8#4 = 0#4 := by
  revert r
  decide

end Sys2Proof
end

