-- ==== Sys2Proof/Laws/Numeric.lean ====
section
/-! SUPPORT. The fast number functions of Machine/Numeric.lean give the values the spec defines: bit length
and bits (00_scope.md R16), the modular inverse (R17), exponentiation (43_modular.md R105), byte strings
(42_bigint_conversion.md R95 to R98). -/

namespace Sys2Proof.Machine

/-! ## Bit length and bits -/

/-- v is below 2^bitlen(v) (R16). -/
theorem lt_two_pow_bitlen (v : Nat) : v < 2 ^ bitlen v := by
  unfold bitlen
  split_ifs with h
  · simp [h]
  · exact Nat.lt_log2_self

/-- bitlen(v) is the least such length (R16). -/
theorem bitlen_le {v L : Nat} (h : v < 2 ^ L) : bitlen v ≤ L := by
  unfold bitlen
  split_ifs with h0
  · exact Nat.zero_le _
  · exact (Nat.log2_lt h0).2 h

/-- bit(v, i) = floor(v / 2^i) mod 2 (R16). -/
theorem bitOf_eq (v i : Nat) : bitOf v i = decide (v / 2 ^ i % 2 = 1) := by
  unfold bitOf
  by_cases h : i < bitlen v
  · simp [h]
  · have hv : v / 2 ^ i = 0 :=
      Nat.div_eq_of_lt ((lt_two_pow_bitlen v).trans_le (Nat.pow_le_pow_right (by decide) (by omega)))
    simp [h, hv]

/-- The bits below i + 1 are bit i and the bits below i. -/
theorem mod_two_pow_succ_bit (v i : Nat) :
    v % 2 ^ (i + 1) = v % 2 ^ i + 2 ^ i * (bitOf v i).toNat := by
  rw [Nat.pow_succ, Nat.mod_mul, bitOf_eq]
  congr 2
  rcases Nat.mod_two_eq_zero_or_one (v / 2 ^ i) with h | h <;> simp [h]

/-! ## Modular inverse -/

theorem euclid_succ (m fuel r0 r1 t0 t1 : Nat) :
    euclid m (fuel + 1) r0 r1 t0 t1 =
      if r1 = 0 then t0
      else euclid m fuel r1 (r0 % r1) t1 ((t0 + (m - r0 / r1 * t1 % m)) % m) := by
  rw [euclid]
  cases r1 <;> rfl

/-- The coefficient Euclid returns turns a into the greatest common divisor, modulo m. -/
theorem euclid_mul (m a fuel r0 r1 t0 t1 : Nat) (hm : 0 < m) (hle : r1 ≤ r0)
    (hfuel : r0 * r1 < 2 ^ fuel) (h0 : (t0 : ZMod m) * a = r0) (h1 : (t1 : ZMod m) * a = r1) :
    (euclid m fuel r0 r1 t0 t1 : ZMod m) * a = Nat.gcd r0 r1 := by
  induction fuel generalizing r0 r1 t0 t1 with
  | zero =>
    have h : r1 = 0 := by
      rcases Nat.mul_eq_zero.1 (Nat.lt_one_iff.1 hfuel) with h | h <;> omega
    subst h
    simpa [euclid] using h0
  | succ fuel ih =>
    rw [euclid_succ]
    split_ifs with h
    · subst h
      simpa using h0
    · have hpos : 0 < r1 := Nat.pos_of_ne_zero h
      have hlt : r0 % r1 < r1 := Nat.mod_lt _ hpos
      have hsum := Nat.div_add_mod r0 r1
      have hq : r1 ≤ r1 * (r0 / r1) := Nat.le_mul_of_pos_right _ (Nat.div_pos hle hpos)
      have hhalf : 2 * (r0 % r1) ≤ r0 := by omega
      have hfuel' : r1 * (r0 % r1) < 2 ^ fuel := by
        have : r1 * (2 * (r0 % r1)) ≤ r1 * r0 := Nat.mul_le_mul_left _ hhalf
        rw [Nat.pow_succ] at hfuel
        have e1 : r1 * (2 * (r0 % r1)) = 2 * (r1 * (r0 % r1)) := by ring
        have e2 : r1 * r0 = r0 * r1 := Nat.mul_comm _ _
        omega
      have hmod : (((t0 + (m - r0 / r1 * t1 % m)) % m : Nat) : ZMod m) = t0 - (r0 / r1 : Nat) * t1 := by
        rw [ZMod.natCast_mod, Nat.cast_add, Nat.cast_sub (Nat.mod_lt _ hm).le, ZMod.natCast_mod,
          ZMod.natCast_self, Nat.cast_mul]
        ring
      have hr : ((r0 % r1 : Nat) : ZMod m) = r0 - r1 * (r0 / r1 : Nat) := by
        have : ((r1 * (r0 / r1) + r0 % r1 : Nat) : ZMod m) = r0 := by rw [hsum]
        push_cast at this
        rw [← this]
        ring
      rw [ih r1 (r0 % r1) t1 _ hlt.le hfuel' h1 (by
        rw [hmod, hr, sub_mul, h0, mul_assoc, h1]
        ring)]
      rw [Nat.gcd_comm r0 r1, Nat.gcd_rec r1 r0, Nat.gcd_comm]

theorem euclid_lt {m fuel r0 r1 t0 t1 : Nat} (h0 : t0 < m) (h1 : t1 < m ∨ r1 = 0) :
    euclid m fuel r0 r1 t0 t1 < m := by
  induction fuel generalizing r0 r1 t0 t1 with
  | zero => exact h0
  | succ fuel ih =>
    rw [euclid_succ]
    split_ifs with h
    · exact h0
    · rcases h1 with h1 | h1
      · exact ih h1 (.inl (Nat.mod_lt _ (by omega)))
      · exact absurd h1 h

/-- inv(a, m) is in [0, m) and is an inverse (R17). -/
theorem modInv_spec {a m : Int} (hm : 0 < m) (hg : Nat.gcd (a % m).toNat m.toNat = 1) :
    0 ≤ modInv a m ∧ modInv a m < m ∧ a * modInv a m % m = 1 % m := by
  obtain ⟨M, rfl⟩ := Int.eq_ofNat_of_zero_le hm.le
  have hM : 0 < M := by exact_mod_cast hm
  obtain ⟨A, hA⟩ := Int.eq_ofNat_of_zero_le (Int.emod_nonneg a hm.ne')
  have hAlt : A < M := by
    have := Int.emod_lt_of_pos a hm
    omega
  simp only [hA, Int.toNat_natCast] at hg ⊢
  rw [modInv, if_pos ⟨hm, by simpa [hA] using hg⟩]
  simp only [hA, Int.toNat_natCast]
  have hfuel : M * A < 2 ^ (2 * bitlen M + 1) := by
    have h1 := lt_two_pow_bitlen M
    calc M * A ≤ M * M := Nat.mul_le_mul_left _ hAlt.le
      _ < 2 ^ bitlen M * 2 ^ bitlen M := Nat.mul_self_lt_mul_self h1
      _ = 2 ^ (2 * bitlen M) := by rw [← pow_add, two_mul]
      _ ≤ 2 ^ (2 * bitlen M + 1) := Nat.pow_le_pow_right (by decide) (by omega)
  have hmul := euclid_mul M A (2 * bitlen M + 1) M A 0 1 hM hAlt.le hfuel (by simp) (by simp)
  have hlt : euclid M (2 * bitlen M + 1) M A 0 1 < M :=
    euclid_lt hM (by omega)
  refine ⟨Int.natCast_nonneg _, by exact_mod_cast hlt, ?_⟩
  rw [Nat.gcd_comm, hg, Nat.cast_one] at hmul
  have hcast : (((a * (euclid M (2 * bitlen M + 1) M A 0 1 : Nat) : Int)) : ZMod M) = ((1 : Int) : ZMod M) := by
    have haA : (a : ZMod M) = (A : ZMod M) := by
      have : ((a % (M : Int) : Int) : ZMod M) = ((A : Int) : ZMod M) := by rw [hA]
      simpa using this
    push_cast
    rw [haA, mul_comm]
    simpa using hmul
  exact (ZMod.intCast_eq_intCast_iff' _ _ _).1 hcast

/-- R17's "unique x in [0, m)". -/
theorem modInv_unique {a m x : Int} (hm : 0 < m) (hg : Nat.gcd (a % m).toNat m.toNat = 1)
    (h0 : 0 ≤ x) (h1 : x < m) (hx : a * x % m = 1 % m) : x = modInv a m := by
  obtain ⟨i0, i1, hi⟩ := modInv_spec hm hg
  have hxi : (modInv a m * a) * x % m = (modInv a m * a) * modInv a m % m := by
    rw [mul_assoc, Int.mul_emod, hx, ← hi, ← Int.mul_emod, mul_assoc]
  have key : ∀ y, (modInv a m * a) * y % m = y % m := fun y => by
    rw [Int.mul_emod, mul_comm (modInv a m) a, hi, ← Int.mul_emod, one_mul]
  rw [key, key, Int.emod_eq_of_lt h0 h1, Int.emod_eq_of_lt i0 i1] at hxi
  exact hxi

/-! ## Exponentiation -/

theorem powStep_eq (x m q : Nat) (bit : Bool) : powStep x m bit q = q ^ 2 * x ^ bit.toNat % m := by
  cases bit <;> simp [powStep, pow_two, Nat.mod_mul_mod]

theorem powLoop_eq (x e m : Nat) (i q : Nat) (hq : q % m = q) :
    powLoop x e m i q = q ^ 2 ^ i * x ^ (e % 2 ^ i) % m := by
  induction i generalizing q with
  | zero => simp [powLoop, hq, Nat.mod_one]
  | succ i ih =>
    rw [powLoop, ih _ (by rw [powStep_eq, Nat.mod_mod]), powStep_eq, mod_two_pow_succ_bit]
    rw [Nat.mul_mod, ← Nat.pow_mod, ← Nat.mul_mod]
    congr 1
    ring

/-- R105's value: x^e mod m, with x^0 = 1. -/
theorem powMod_eq (x e m : Nat) : powMod x e m = x ^ e % m := by
  rw [powMod, powLoop_eq _ _ _ _ _ (Nat.mod_mod _ _), Nat.mod_eq_of_lt (lt_two_pow_bitlen e),
    Nat.mul_mod, ← Nat.pow_mod, one_pow, ← Nat.mul_mod, one_mul]

/-! ## Byte strings -/

theorem byteOf_toNat (x j : Nat) : (byteOf x j).toNat = x / 2 ^ (8 * j) % 256 := by
  simp [byteOf]

theorem leBytes_succ (L x : Nat) : leBytes (L + 1) x = byteOf x 0 :: leBytes L (x / 256) := by
  simp only [leBytes, List.range_succ_eq_map, List.map_cons, List.map_map]
  congr 1
  refine List.map_congr_left fun j _ => ?_
  simp only [byteOf, Function.comp, Nat.succ_eq_add_one, Nat.div_div_eq_div_mul]
  congr 2
  rw [show 8 * (j + 1) = 8 + 8 * j by omega, pow_add]
  norm_num

/-- The little-endian bytes of x have the value of x modulo 256^L. -/
theorem leValue_leBytes (L x : Nat) : leValue (leBytes L x) = x % 256 ^ L := by
  induction L generalizing x with
  | zero => simp [leBytes, leValue, Nat.mod_one]
  | succ L ih =>
    rw [leBytes_succ]
    have h : leValue (byteOf x 0 :: leBytes L (x / 256)) =
        (byteOf x 0).toNat + leValue (leBytes L (x / 256)) * 256 := rfl
    rw [h, ih, byteOf_toNat, Nat.pow_succ', Nat.mod_mul]
    simp [Nat.mul_comm]

/-- The big-endian bytes are the little-endian bytes in the opposite order. -/
theorem beBytes_eq_reverse (L x : Nat) : beBytes L x = (leBytes L x).reverse := by
  refine List.ext_getElem (by simp [beBytes, leBytes]) fun j h₁ h₂ => ?_
  simp only [beBytes, List.length_map, List.length_range] at h₁
  simp [beBytes, leBytes]

theorem beValue_eq_reverse (s : List Byte) : beValue s = leValue s.reverse := by
  rw [beValue, leValue, List.foldr_reverse]
  congr 1
  funext v x
  exact Nat.add_comm _ _

/-- The big-endian bytes of x have the value of x modulo 256^L. -/
theorem beValue_beBytes (L x : Nat) : beValue (beBytes L x) = x % 256 ^ L := by
  rw [beValue_eq_reverse, beBytes_eq_reverse, List.reverse_reverse, leValue_leBytes]

/-- A byte string's value is below 256^len. -/
theorem leValue_lt (s : List Byte) : leValue s < 256 ^ s.length := by
  induction s with
  | nil => simp [leValue]
  | cons x s ih =>
    have hx := x.isLt
    have h : leValue (x :: s) = x.toNat + leValue s * 256 := rfl
    rw [h, List.length_cons, Nat.pow_succ]
    omega

@[simp] theorem beBytes_length (L x : Nat) : (beBytes L x).length = L := by simp [beBytes]

@[simp] theorem leBytes_length (L x : Nat) : (leBytes L x).length = L := by simp [leBytes]

/-- x fits in bytelen(x) bytes (R17). -/
theorem lt_pow_bytelen (x : Nat) : x < 256 ^ bytelen x := by
  refine (lt_two_pow_bitlen x).trans_le ?_
  rw [show (256 : Nat) = 2 ^ 8 by norm_num, ← pow_mul]
  refine Nat.pow_le_pow_right (by decide) ?_
  unfold bytelen
  omega

end Sys2Proof.Machine
end

