-- ==== Sys2Proof/Laws/State.lean ====
section
/-! SUPPORT. One lemma for each field of State and each named update, true by definition, so that no later
proof unfolds a record update. -/

namespace Sys2Proof.Machine

variable (s : State)

/-! ## raise -/

@[simp] theorem State.raise_build (e : EngineError) : (s.raise e).build = s.build := rfl
@[simp] theorem State.raise_b (e : EngineError) : (s.raise e).b = s.b := rfl
@[simp] theorem State.raise_vb (e : EngineError) : (s.raise e).vb = s.vb := rfl
@[simp] theorem State.raise_p (e : EngineError) : (s.raise e).p = s.p := rfl
@[simp] theorem State.raise_vp (e : EngineError) : (s.raise e).vp = s.vp := rfl
@[simp] theorem State.raise_flags (e : EngineError) : (s.raise e).flags = s.flags := rfl
@[simp] theorem State.raise_pc (e : EngineError) : (s.raise e).pc = s.pc := rfl
@[simp] theorem State.raise_runState (e : EngineError) : (s.raise e).runState = .idle := rfl
@[simp] theorem State.raise_done (e : EngineError) : (s.raise e).done = s.done := rfl
@[simp] theorem State.raise_err (e : EngineError) : (s.raise e).err = true := rfl
@[simp] theorem State.raise_hwErr (e : EngineError) : (s.raise e).hwErr = s.hwErr := rfl
@[simp] theorem State.raise_errCode (e : EngineError) : (s.raise e).errCode = e.code := rfl
@[simp] theorem State.raise_errPc (e : EngineError) : (s.raise e).errPc = s.pc := rfl
@[simp] theorem State.raise_startPc (e : EngineError) : (s.raise e).startPc = s.startPc := rfl
@[simp] theorem State.raise_irqEn (e : EngineError) : (s.raise e).irqEn = s.irqEn := rfl
@[simp] theorem State.raise_slen (e : EngineError) : (s.raise e).slen = s.slen := rfl
@[simp] theorem State.raise_nonceW (e : EngineError) : (s.raise e).nonceW = s.nonceW := rfl
@[simp] theorem State.raise_nonceValid (e : EngineError) : (s.raise e).nonceValid = s.nonceValid := rfl
@[simp] theorem State.raise_imem (e : EngineError) : (s.raise e).imem = s.imem := rfl
@[simp] theorem State.raise_dmem (e : EngineError) : (s.raise e).dmem = s.dmem := rfl
@[simp] theorem State.raise_resetLine (e : EngineError) : (s.raise e).resetLine = s.resetLine := rfl
@[simp] theorem State.raise_inputs (e : EngineError) : (s.raise e).inputs = s.inputs := rfl
@[simp] theorem State.raise_reads (e : EngineError) : (s.raise e).reads = s.reads := rfl
@[simp] theorem State.raise_draws (e : EngineError) : (s.raise e).draws = s.draws := rfl

/-! ## start -/

@[simp] theorem State.start_build : (s.start).build = s.build := rfl
@[simp] theorem State.start_b : (s.start).b = s.b := rfl
@[simp] theorem State.start_vb : (s.start).vb = s.vb := rfl
@[simp] theorem State.start_p : (s.start).p = s.p := rfl
@[simp] theorem State.start_vp : (s.start).vp = s.vp := rfl
@[simp] theorem State.start_flags : (s.start).flags = s.flags := rfl
@[simp] theorem State.start_pc : (s.start).pc = s.startPc := rfl
@[simp] theorem State.start_runState : (s.start).runState = .run := rfl
@[simp] theorem State.start_done : (s.start).done = false := rfl
@[simp] theorem State.start_err : (s.start).err = false := rfl
@[simp] theorem State.start_hwErr : (s.start).hwErr = s.hwErr := rfl
@[simp] theorem State.start_errCode : (s.start).errCode = 0 := rfl
@[simp] theorem State.start_errPc : (s.start).errPc = 0 := rfl
@[simp] theorem State.start_startPc : (s.start).startPc = s.startPc := rfl
@[simp] theorem State.start_irqEn : (s.start).irqEn = s.irqEn := rfl
@[simp] theorem State.start_slen : (s.start).slen = s.slen := rfl
@[simp] theorem State.start_nonceW : (s.start).nonceW = s.nonceW := rfl
@[simp] theorem State.start_nonceValid : (s.start).nonceValid = s.nonceValid := rfl
@[simp] theorem State.start_imem : (s.start).imem = s.imem := rfl
@[simp] theorem State.start_dmem : (s.start).dmem = s.dmem := rfl
@[simp] theorem State.start_resetLine : (s.start).resetLine = s.resetLine := rfl
@[simp] theorem State.start_inputs : (s.start).inputs = s.inputs := rfl
@[simp] theorem State.start_reads : (s.start).reads = s.reads := rfl
@[simp] theorem State.start_draws : (s.start).draws = s.draws := rfl

/-! ## setB -/

@[simp] theorem State.setB_build (r : BReg) (v : Int) : (s.setB r v).build = s.build := rfl
@[simp] theorem State.setB_b (r : BReg) (v : Int) : (s.setB r v).b = s.b.set r.val v r.isLt := rfl
@[simp] theorem State.setB_vb (r : BReg) (v : Int) : (s.setB r v).vb = s.vb.set r.val true r.isLt := rfl
@[simp] theorem State.setB_p (r : BReg) (v : Int) : (s.setB r v).p = s.p := rfl
@[simp] theorem State.setB_vp (r : BReg) (v : Int) : (s.setB r v).vp = s.vp := rfl
@[simp] theorem State.setB_flags (r : BReg) (v : Int) : (s.setB r v).flags = s.flags := rfl
@[simp] theorem State.setB_pc (r : BReg) (v : Int) : (s.setB r v).pc = s.pc := rfl
@[simp] theorem State.setB_runState (r : BReg) (v : Int) : (s.setB r v).runState = s.runState := rfl
@[simp] theorem State.setB_done (r : BReg) (v : Int) : (s.setB r v).done = s.done := rfl
@[simp] theorem State.setB_err (r : BReg) (v : Int) : (s.setB r v).err = s.err := rfl
@[simp] theorem State.setB_hwErr (r : BReg) (v : Int) : (s.setB r v).hwErr = s.hwErr := rfl
@[simp] theorem State.setB_errCode (r : BReg) (v : Int) : (s.setB r v).errCode = s.errCode := rfl
@[simp] theorem State.setB_errPc (r : BReg) (v : Int) : (s.setB r v).errPc = s.errPc := rfl
@[simp] theorem State.setB_startPc (r : BReg) (v : Int) : (s.setB r v).startPc = s.startPc := rfl
@[simp] theorem State.setB_irqEn (r : BReg) (v : Int) : (s.setB r v).irqEn = s.irqEn := rfl
@[simp] theorem State.setB_slen (r : BReg) (v : Int) : (s.setB r v).slen = s.slen := rfl
@[simp] theorem State.setB_nonceW (r : BReg) (v : Int) : (s.setB r v).nonceW = s.nonceW := rfl
@[simp] theorem State.setB_nonceValid (r : BReg) (v : Int) : (s.setB r v).nonceValid = s.nonceValid := rfl
@[simp] theorem State.setB_imem (r : BReg) (v : Int) : (s.setB r v).imem = s.imem := rfl
@[simp] theorem State.setB_dmem (r : BReg) (v : Int) : (s.setB r v).dmem = s.dmem := rfl
@[simp] theorem State.setB_resetLine (r : BReg) (v : Int) : (s.setB r v).resetLine = s.resetLine := rfl
@[simp] theorem State.setB_inputs (r : BReg) (v : Int) : (s.setB r v).inputs = s.inputs := rfl
@[simp] theorem State.setB_reads (r : BReg) (v : Int) : (s.setB r v).reads = s.reads := rfl
@[simp] theorem State.setB_draws (r : BReg) (v : Int) : (s.setB r v).draws = s.draws := rfl

/-! ## setP -/

@[simp] theorem State.setP_build (r : PReg) (pt : Point) : (s.setP r pt).build = s.build := rfl
@[simp] theorem State.setP_b (r : PReg) (pt : Point) : (s.setP r pt).b = s.b := rfl
@[simp] theorem State.setP_vb (r : PReg) (pt : Point) : (s.setP r pt).vb = s.vb := rfl
@[simp] theorem State.setP_p (r : PReg) (pt : Point) : (s.setP r pt).p = s.p.set r.val pt r.isLt := rfl
@[simp] theorem State.setP_vp (r : PReg) (pt : Point) : (s.setP r pt).vp = s.vp.set r.val true r.isLt := rfl
@[simp] theorem State.setP_flags (r : PReg) (pt : Point) : (s.setP r pt).flags = s.flags := rfl
@[simp] theorem State.setP_pc (r : PReg) (pt : Point) : (s.setP r pt).pc = s.pc := rfl
@[simp] theorem State.setP_runState (r : PReg) (pt : Point) : (s.setP r pt).runState = s.runState := rfl
@[simp] theorem State.setP_done (r : PReg) (pt : Point) : (s.setP r pt).done = s.done := rfl
@[simp] theorem State.setP_err (r : PReg) (pt : Point) : (s.setP r pt).err = s.err := rfl
@[simp] theorem State.setP_hwErr (r : PReg) (pt : Point) : (s.setP r pt).hwErr = s.hwErr := rfl
@[simp] theorem State.setP_errCode (r : PReg) (pt : Point) : (s.setP r pt).errCode = s.errCode := rfl
@[simp] theorem State.setP_errPc (r : PReg) (pt : Point) : (s.setP r pt).errPc = s.errPc := rfl
@[simp] theorem State.setP_startPc (r : PReg) (pt : Point) : (s.setP r pt).startPc = s.startPc := rfl
@[simp] theorem State.setP_irqEn (r : PReg) (pt : Point) : (s.setP r pt).irqEn = s.irqEn := rfl
@[simp] theorem State.setP_slen (r : PReg) (pt : Point) : (s.setP r pt).slen = s.slen := rfl
@[simp] theorem State.setP_nonceW (r : PReg) (pt : Point) : (s.setP r pt).nonceW = s.nonceW := rfl
@[simp] theorem State.setP_nonceValid (r : PReg) (pt : Point) : (s.setP r pt).nonceValid = s.nonceValid := rfl
@[simp] theorem State.setP_imem (r : PReg) (pt : Point) : (s.setP r pt).imem = s.imem := rfl
@[simp] theorem State.setP_dmem (r : PReg) (pt : Point) : (s.setP r pt).dmem = s.dmem := rfl
@[simp] theorem State.setP_resetLine (r : PReg) (pt : Point) : (s.setP r pt).resetLine = s.resetLine := rfl
@[simp] theorem State.setP_inputs (r : PReg) (pt : Point) : (s.setP r pt).inputs = s.inputs := rfl
@[simp] theorem State.setP_reads (r : PReg) (pt : Point) : (s.setP r pt).reads = s.reads := rfl
@[simp] theorem State.setP_draws (r : PReg) (pt : Point) : (s.setP r pt).draws = s.draws := rfl

/-! ## jump -/

@[simp] theorem State.jump_build (target : BitVec 16) : (s.jump target).build = s.build := rfl
@[simp] theorem State.jump_b (target : BitVec 16) : (s.jump target).b = s.b := rfl
@[simp] theorem State.jump_vb (target : BitVec 16) : (s.jump target).vb = s.vb := rfl
@[simp] theorem State.jump_p (target : BitVec 16) : (s.jump target).p = s.p := rfl
@[simp] theorem State.jump_vp (target : BitVec 16) : (s.jump target).vp = s.vp := rfl
@[simp] theorem State.jump_flags (target : BitVec 16) : (s.jump target).flags = s.flags := rfl
@[simp] theorem State.jump_pc (target : BitVec 16) : (s.jump target).pc = target := rfl
@[simp] theorem State.jump_runState (target : BitVec 16) : (s.jump target).runState = s.runState := rfl
@[simp] theorem State.jump_done (target : BitVec 16) : (s.jump target).done = s.done := rfl
@[simp] theorem State.jump_err (target : BitVec 16) : (s.jump target).err = s.err := rfl
@[simp] theorem State.jump_hwErr (target : BitVec 16) : (s.jump target).hwErr = s.hwErr := rfl
@[simp] theorem State.jump_errCode (target : BitVec 16) : (s.jump target).errCode = s.errCode := rfl
@[simp] theorem State.jump_errPc (target : BitVec 16) : (s.jump target).errPc = s.errPc := rfl
@[simp] theorem State.jump_startPc (target : BitVec 16) : (s.jump target).startPc = s.startPc := rfl
@[simp] theorem State.jump_irqEn (target : BitVec 16) : (s.jump target).irqEn = s.irqEn := rfl
@[simp] theorem State.jump_slen (target : BitVec 16) : (s.jump target).slen = s.slen := rfl
@[simp] theorem State.jump_nonceW (target : BitVec 16) : (s.jump target).nonceW = s.nonceW := rfl
@[simp] theorem State.jump_nonceValid (target : BitVec 16) : (s.jump target).nonceValid = s.nonceValid := rfl
@[simp] theorem State.jump_imem (target : BitVec 16) : (s.jump target).imem = s.imem := rfl
@[simp] theorem State.jump_dmem (target : BitVec 16) : (s.jump target).dmem = s.dmem := rfl
@[simp] theorem State.jump_resetLine (target : BitVec 16) : (s.jump target).resetLine = s.resetLine := rfl
@[simp] theorem State.jump_inputs (target : BitVec 16) : (s.jump target).inputs = s.inputs := rfl
@[simp] theorem State.jump_reads (target : BitVec 16) : (s.jump target).reads = s.reads := rfl
@[simp] theorem State.jump_draws (target : BitVec 16) : (s.jump target).draws = s.draws := rfl

/-! ## nextPc -/

@[simp] theorem State.nextPc_build : (s.nextPc).build = s.build := rfl
@[simp] theorem State.nextPc_b : (s.nextPc).b = s.b := rfl
@[simp] theorem State.nextPc_vb : (s.nextPc).vb = s.vb := rfl
@[simp] theorem State.nextPc_p : (s.nextPc).p = s.p := rfl
@[simp] theorem State.nextPc_vp : (s.nextPc).vp = s.vp := rfl
@[simp] theorem State.nextPc_flags : (s.nextPc).flags = s.flags := rfl
@[simp] theorem State.nextPc_pc : (s.nextPc).pc = s.pc + 1 := rfl
@[simp] theorem State.nextPc_runState : (s.nextPc).runState = s.runState := rfl
@[simp] theorem State.nextPc_done : (s.nextPc).done = s.done := rfl
@[simp] theorem State.nextPc_err : (s.nextPc).err = s.err := rfl
@[simp] theorem State.nextPc_hwErr : (s.nextPc).hwErr = s.hwErr := rfl
@[simp] theorem State.nextPc_errCode : (s.nextPc).errCode = s.errCode := rfl
@[simp] theorem State.nextPc_errPc : (s.nextPc).errPc = s.errPc := rfl
@[simp] theorem State.nextPc_startPc : (s.nextPc).startPc = s.startPc := rfl
@[simp] theorem State.nextPc_irqEn : (s.nextPc).irqEn = s.irqEn := rfl
@[simp] theorem State.nextPc_slen : (s.nextPc).slen = s.slen := rfl
@[simp] theorem State.nextPc_nonceW : (s.nextPc).nonceW = s.nonceW := rfl
@[simp] theorem State.nextPc_nonceValid : (s.nextPc).nonceValid = s.nonceValid := rfl
@[simp] theorem State.nextPc_imem : (s.nextPc).imem = s.imem := rfl
@[simp] theorem State.nextPc_dmem : (s.nextPc).dmem = s.dmem := rfl
@[simp] theorem State.nextPc_resetLine : (s.nextPc).resetLine = s.resetLine := rfl
@[simp] theorem State.nextPc_inputs : (s.nextPc).inputs = s.inputs := rfl
@[simp] theorem State.nextPc_reads : (s.nextPc).reads = s.reads := rfl
@[simp] theorem State.nextPc_draws : (s.nextPc).draws = s.draws := rfl

/-! ## stop -/

@[simp] theorem State.stop_build : (s.stop).build = s.build := rfl
@[simp] theorem State.stop_b : (s.stop).b = s.b := rfl
@[simp] theorem State.stop_vb : (s.stop).vb = s.vb := rfl
@[simp] theorem State.stop_p : (s.stop).p = s.p := rfl
@[simp] theorem State.stop_vp : (s.stop).vp = s.vp := rfl
@[simp] theorem State.stop_flags : (s.stop).flags = s.flags := rfl
@[simp] theorem State.stop_pc : (s.stop).pc = s.pc := rfl
@[simp] theorem State.stop_runState : (s.stop).runState = .idle := rfl
@[simp] theorem State.stop_done : (s.stop).done = true := rfl
@[simp] theorem State.stop_err : (s.stop).err = s.err := rfl
@[simp] theorem State.stop_hwErr : (s.stop).hwErr = s.hwErr := rfl
@[simp] theorem State.stop_errCode : (s.stop).errCode = s.errCode := rfl
@[simp] theorem State.stop_errPc : (s.stop).errPc = s.errPc := rfl
@[simp] theorem State.stop_startPc : (s.stop).startPc = s.startPc := rfl
@[simp] theorem State.stop_irqEn : (s.stop).irqEn = s.irqEn := rfl
@[simp] theorem State.stop_slen : (s.stop).slen = s.slen := rfl
@[simp] theorem State.stop_nonceW : (s.stop).nonceW = s.nonceW := rfl
@[simp] theorem State.stop_nonceValid : (s.stop).nonceValid = s.nonceValid := rfl
@[simp] theorem State.stop_imem : (s.stop).imem = s.imem := rfl
@[simp] theorem State.stop_dmem : (s.stop).dmem = s.dmem := rfl
@[simp] theorem State.stop_resetLine : (s.stop).resetLine = s.resetLine := rfl
@[simp] theorem State.stop_inputs : (s.stop).inputs = s.inputs := rfl
@[simp] theorem State.stop_reads : (s.stop).reads = s.reads := rfl
@[simp] theorem State.stop_draws : (s.stop).draws = s.draws := rfl

/-! ## useDraws -/

@[simp] theorem State.useDraws_build (k : Nat) : (s.useDraws k).build = s.build := rfl
@[simp] theorem State.useDraws_b (k : Nat) : (s.useDraws k).b = s.b := rfl
@[simp] theorem State.useDraws_vb (k : Nat) : (s.useDraws k).vb = s.vb := rfl
@[simp] theorem State.useDraws_p (k : Nat) : (s.useDraws k).p = s.p := rfl
@[simp] theorem State.useDraws_vp (k : Nat) : (s.useDraws k).vp = s.vp := rfl
@[simp] theorem State.useDraws_flags (k : Nat) : (s.useDraws k).flags = s.flags := rfl
@[simp] theorem State.useDraws_pc (k : Nat) : (s.useDraws k).pc = s.pc := rfl
@[simp] theorem State.useDraws_runState (k : Nat) : (s.useDraws k).runState = s.runState := rfl
@[simp] theorem State.useDraws_done (k : Nat) : (s.useDraws k).done = s.done := rfl
@[simp] theorem State.useDraws_err (k : Nat) : (s.useDraws k).err = s.err := rfl
@[simp] theorem State.useDraws_hwErr (k : Nat) : (s.useDraws k).hwErr = s.hwErr := rfl
@[simp] theorem State.useDraws_errCode (k : Nat) : (s.useDraws k).errCode = s.errCode := rfl
@[simp] theorem State.useDraws_errPc (k : Nat) : (s.useDraws k).errPc = s.errPc := rfl
@[simp] theorem State.useDraws_startPc (k : Nat) : (s.useDraws k).startPc = s.startPc := rfl
@[simp] theorem State.useDraws_irqEn (k : Nat) : (s.useDraws k).irqEn = s.irqEn := rfl
@[simp] theorem State.useDraws_slen (k : Nat) : (s.useDraws k).slen = s.slen := rfl
@[simp] theorem State.useDraws_nonceW (k : Nat) : (s.useDraws k).nonceW = s.nonceW := rfl
@[simp] theorem State.useDraws_nonceValid (k : Nat) : (s.useDraws k).nonceValid = s.nonceValid := rfl
@[simp] theorem State.useDraws_imem (k : Nat) : (s.useDraws k).imem = s.imem := rfl
@[simp] theorem State.useDraws_dmem (k : Nat) : (s.useDraws k).dmem = s.dmem := rfl
@[simp] theorem State.useDraws_resetLine (k : Nat) : (s.useDraws k).resetLine = s.resetLine := rfl
@[simp] theorem State.useDraws_inputs (k : Nat) : (s.useDraws k).inputs = s.inputs := rfl
@[simp] theorem State.useDraws_reads (k : Nat) : (s.useDraws k).reads = s.reads := rfl
@[simp] theorem State.useDraws_draws (k : Nat) : (s.useDraws k).draws = s.draws + k := rfl

/-! ## setSlen -/

@[simp] theorem State.setSlen_build (L : Nat) : (s.setSlen L).build = s.build := rfl
@[simp] theorem State.setSlen_b (L : Nat) : (s.setSlen L).b = s.b := rfl
@[simp] theorem State.setSlen_vb (L : Nat) : (s.setSlen L).vb = s.vb := rfl
@[simp] theorem State.setSlen_p (L : Nat) : (s.setSlen L).p = s.p := rfl
@[simp] theorem State.setSlen_vp (L : Nat) : (s.setSlen L).vp = s.vp := rfl
@[simp] theorem State.setSlen_flags (L : Nat) : (s.setSlen L).flags = s.flags := rfl
@[simp] theorem State.setSlen_pc (L : Nat) : (s.setSlen L).pc = s.pc := rfl
@[simp] theorem State.setSlen_runState (L : Nat) : (s.setSlen L).runState = s.runState := rfl
@[simp] theorem State.setSlen_done (L : Nat) : (s.setSlen L).done = s.done := rfl
@[simp] theorem State.setSlen_err (L : Nat) : (s.setSlen L).err = s.err := rfl
@[simp] theorem State.setSlen_hwErr (L : Nat) : (s.setSlen L).hwErr = s.hwErr := rfl
@[simp] theorem State.setSlen_errCode (L : Nat) : (s.setSlen L).errCode = s.errCode := rfl
@[simp] theorem State.setSlen_errPc (L : Nat) : (s.setSlen L).errPc = s.errPc := rfl
@[simp] theorem State.setSlen_startPc (L : Nat) : (s.setSlen L).startPc = s.startPc := rfl
@[simp] theorem State.setSlen_irqEn (L : Nat) : (s.setSlen L).irqEn = s.irqEn := rfl
@[simp] theorem State.setSlen_slen (L : Nat) : (s.setSlen L).slen = BitVec.ofNat 16 L := rfl
@[simp] theorem State.setSlen_nonceW (L : Nat) : (s.setSlen L).nonceW = s.nonceW := rfl
@[simp] theorem State.setSlen_nonceValid (L : Nat) : (s.setSlen L).nonceValid = s.nonceValid := rfl
@[simp] theorem State.setSlen_imem (L : Nat) : (s.setSlen L).imem = s.imem := rfl
@[simp] theorem State.setSlen_dmem (L : Nat) : (s.setSlen L).dmem = s.dmem := rfl
@[simp] theorem State.setSlen_resetLine (L : Nat) : (s.setSlen L).resetLine = s.resetLine := rfl
@[simp] theorem State.setSlen_inputs (L : Nat) : (s.setSlen L).inputs = s.inputs := rfl
@[simp] theorem State.setSlen_reads (L : Nat) : (s.setSlen L).reads = s.reads := rfl
@[simp] theorem State.setSlen_draws (L : Nat) : (s.setSlen L).draws = s.draws := rfl

/-! ## consumeNonce -/

@[simp] theorem State.consumeNonce_build : (s.consumeNonce).build = s.build := rfl
@[simp] theorem State.consumeNonce_b : (s.consumeNonce).b = s.b := rfl
@[simp] theorem State.consumeNonce_vb : (s.consumeNonce).vb = s.vb := rfl
@[simp] theorem State.consumeNonce_p : (s.consumeNonce).p = s.p := rfl
@[simp] theorem State.consumeNonce_vp : (s.consumeNonce).vp = s.vp := rfl
@[simp] theorem State.consumeNonce_flags : (s.consumeNonce).flags = s.flags := rfl
@[simp] theorem State.consumeNonce_pc : (s.consumeNonce).pc = s.pc := rfl
@[simp] theorem State.consumeNonce_runState : (s.consumeNonce).runState = s.runState := rfl
@[simp] theorem State.consumeNonce_done : (s.consumeNonce).done = s.done := rfl
@[simp] theorem State.consumeNonce_err : (s.consumeNonce).err = s.err := rfl
@[simp] theorem State.consumeNonce_hwErr : (s.consumeNonce).hwErr = s.hwErr := rfl
@[simp] theorem State.consumeNonce_errCode : (s.consumeNonce).errCode = s.errCode := rfl
@[simp] theorem State.consumeNonce_errPc : (s.consumeNonce).errPc = s.errPc := rfl
@[simp] theorem State.consumeNonce_startPc : (s.consumeNonce).startPc = s.startPc := rfl
@[simp] theorem State.consumeNonce_irqEn : (s.consumeNonce).irqEn = s.irqEn := rfl
@[simp] theorem State.consumeNonce_slen : (s.consumeNonce).slen = s.slen := rfl
@[simp] theorem State.consumeNonce_nonceW : (s.consumeNonce).nonceW = Vector.replicate 8 0 := rfl
@[simp] theorem State.consumeNonce_nonceValid : (s.consumeNonce).nonceValid = false := rfl
@[simp] theorem State.consumeNonce_imem : (s.consumeNonce).imem = s.imem := rfl
@[simp] theorem State.consumeNonce_dmem : (s.consumeNonce).dmem = s.dmem := rfl
@[simp] theorem State.consumeNonce_resetLine : (s.consumeNonce).resetLine = s.resetLine := rfl
@[simp] theorem State.consumeNonce_inputs : (s.consumeNonce).inputs = s.inputs := rfl
@[simp] theorem State.consumeNonce_reads : (s.consumeNonce).reads = s.reads := rfl
@[simp] theorem State.consumeNonce_draws : (s.consumeNonce).draws = s.draws := rfl

/-! ## awaitNonce -/

@[simp] theorem State.awaitNonce_build (held : SignOperands) : (s.awaitNonce held).build = s.build := rfl
@[simp] theorem State.awaitNonce_b (held : SignOperands) : (s.awaitNonce held).b = s.b := rfl
@[simp] theorem State.awaitNonce_vb (held : SignOperands) : (s.awaitNonce held).vb = s.vb := rfl
@[simp] theorem State.awaitNonce_p (held : SignOperands) : (s.awaitNonce held).p = s.p := rfl
@[simp] theorem State.awaitNonce_vp (held : SignOperands) : (s.awaitNonce held).vp = s.vp := rfl
@[simp] theorem State.awaitNonce_flags (held : SignOperands) : (s.awaitNonce held).flags = s.flags := rfl
@[simp] theorem State.awaitNonce_pc (held : SignOperands) : (s.awaitNonce held).pc = s.pc := rfl
@[simp] theorem State.awaitNonce_runState (held : SignOperands) : (s.awaitNonce held).runState = .nonceWait held := rfl
@[simp] theorem State.awaitNonce_done (held : SignOperands) : (s.awaitNonce held).done = s.done := rfl
@[simp] theorem State.awaitNonce_err (held : SignOperands) : (s.awaitNonce held).err = s.err := rfl
@[simp] theorem State.awaitNonce_hwErr (held : SignOperands) : (s.awaitNonce held).hwErr = s.hwErr := rfl
@[simp] theorem State.awaitNonce_errCode (held : SignOperands) : (s.awaitNonce held).errCode = s.errCode := rfl
@[simp] theorem State.awaitNonce_errPc (held : SignOperands) : (s.awaitNonce held).errPc = s.errPc := rfl
@[simp] theorem State.awaitNonce_startPc (held : SignOperands) : (s.awaitNonce held).startPc = s.startPc := rfl
@[simp] theorem State.awaitNonce_irqEn (held : SignOperands) : (s.awaitNonce held).irqEn = s.irqEn := rfl
@[simp] theorem State.awaitNonce_slen (held : SignOperands) : (s.awaitNonce held).slen = s.slen := rfl
@[simp] theorem State.awaitNonce_nonceW (held : SignOperands) : (s.awaitNonce held).nonceW = s.nonceW := rfl
@[simp] theorem State.awaitNonce_nonceValid (held : SignOperands) : (s.awaitNonce held).nonceValid = s.nonceValid := rfl
@[simp] theorem State.awaitNonce_imem (held : SignOperands) : (s.awaitNonce held).imem = s.imem := rfl
@[simp] theorem State.awaitNonce_dmem (held : SignOperands) : (s.awaitNonce held).dmem = s.dmem := rfl
@[simp] theorem State.awaitNonce_resetLine (held : SignOperands) : (s.awaitNonce held).resetLine = s.resetLine := rfl
@[simp] theorem State.awaitNonce_inputs (held : SignOperands) : (s.awaitNonce held).inputs = s.inputs := rfl
@[simp] theorem State.awaitNonce_reads (held : SignOperands) : (s.awaitNonce held).reads = s.reads := rfl
@[simp] theorem State.awaitNonce_draws (held : SignOperands) : (s.awaitNonce held).draws = s.draws := rfl

/-! ## setZN -/

@[simp] theorem State.setZN_build (v : Int) : (s.setZN v).build = s.build := rfl
@[simp] theorem State.setZN_b (v : Int) : (s.setZN v).b = s.b := rfl
@[simp] theorem State.setZN_vb (v : Int) : (s.setZN v).vb = s.vb := rfl
@[simp] theorem State.setZN_p (v : Int) : (s.setZN v).p = s.p := rfl
@[simp] theorem State.setZN_vp (v : Int) : (s.setZN v).vp = s.vp := rfl
@[simp] theorem State.setZN_flags (v : Int) : (s.setZN v).flags = { s.flags with z := decide (v = 0), n := decide (v < 0) } := rfl
@[simp] theorem State.setZN_pc (v : Int) : (s.setZN v).pc = s.pc := rfl
@[simp] theorem State.setZN_runState (v : Int) : (s.setZN v).runState = s.runState := rfl
@[simp] theorem State.setZN_done (v : Int) : (s.setZN v).done = s.done := rfl
@[simp] theorem State.setZN_err (v : Int) : (s.setZN v).err = s.err := rfl
@[simp] theorem State.setZN_hwErr (v : Int) : (s.setZN v).hwErr = s.hwErr := rfl
@[simp] theorem State.setZN_errCode (v : Int) : (s.setZN v).errCode = s.errCode := rfl
@[simp] theorem State.setZN_errPc (v : Int) : (s.setZN v).errPc = s.errPc := rfl
@[simp] theorem State.setZN_startPc (v : Int) : (s.setZN v).startPc = s.startPc := rfl
@[simp] theorem State.setZN_irqEn (v : Int) : (s.setZN v).irqEn = s.irqEn := rfl
@[simp] theorem State.setZN_slen (v : Int) : (s.setZN v).slen = s.slen := rfl
@[simp] theorem State.setZN_nonceW (v : Int) : (s.setZN v).nonceW = s.nonceW := rfl
@[simp] theorem State.setZN_nonceValid (v : Int) : (s.setZN v).nonceValid = s.nonceValid := rfl
@[simp] theorem State.setZN_imem (v : Int) : (s.setZN v).imem = s.imem := rfl
@[simp] theorem State.setZN_dmem (v : Int) : (s.setZN v).dmem = s.dmem := rfl
@[simp] theorem State.setZN_resetLine (v : Int) : (s.setZN v).resetLine = s.resetLine := rfl
@[simp] theorem State.setZN_inputs (v : Int) : (s.setZN v).inputs = s.inputs := rfl
@[simp] theorem State.setZN_reads (v : Int) : (s.setZN v).reads = s.reads := rfl
@[simp] theorem State.setZN_draws (v : Int) : (s.setZN v).draws = s.draws := rfl

/-! ## setT -/

@[simp] theorem State.setT_build (t : Bool) : (s.setT t).build = s.build := rfl
@[simp] theorem State.setT_b (t : Bool) : (s.setT t).b = s.b := rfl
@[simp] theorem State.setT_vb (t : Bool) : (s.setT t).vb = s.vb := rfl
@[simp] theorem State.setT_p (t : Bool) : (s.setT t).p = s.p := rfl
@[simp] theorem State.setT_vp (t : Bool) : (s.setT t).vp = s.vp := rfl
@[simp] theorem State.setT_flags (t : Bool) : (s.setT t).flags = { s.flags with t := t } := rfl
@[simp] theorem State.setT_pc (t : Bool) : (s.setT t).pc = s.pc := rfl
@[simp] theorem State.setT_runState (t : Bool) : (s.setT t).runState = s.runState := rfl
@[simp] theorem State.setT_done (t : Bool) : (s.setT t).done = s.done := rfl
@[simp] theorem State.setT_err (t : Bool) : (s.setT t).err = s.err := rfl
@[simp] theorem State.setT_hwErr (t : Bool) : (s.setT t).hwErr = s.hwErr := rfl
@[simp] theorem State.setT_errCode (t : Bool) : (s.setT t).errCode = s.errCode := rfl
@[simp] theorem State.setT_errPc (t : Bool) : (s.setT t).errPc = s.errPc := rfl
@[simp] theorem State.setT_startPc (t : Bool) : (s.setT t).startPc = s.startPc := rfl
@[simp] theorem State.setT_irqEn (t : Bool) : (s.setT t).irqEn = s.irqEn := rfl
@[simp] theorem State.setT_slen (t : Bool) : (s.setT t).slen = s.slen := rfl
@[simp] theorem State.setT_nonceW (t : Bool) : (s.setT t).nonceW = s.nonceW := rfl
@[simp] theorem State.setT_nonceValid (t : Bool) : (s.setT t).nonceValid = s.nonceValid := rfl
@[simp] theorem State.setT_imem (t : Bool) : (s.setT t).imem = s.imem := rfl
@[simp] theorem State.setT_dmem (t : Bool) : (s.setT t).dmem = s.dmem := rfl
@[simp] theorem State.setT_resetLine (t : Bool) : (s.setT t).resetLine = s.resetLine := rfl
@[simp] theorem State.setT_inputs (t : Bool) : (s.setT t).inputs = s.inputs := rfl
@[simp] theorem State.setT_reads (t : Bool) : (s.setT t).reads = s.reads := rfl
@[simp] theorem State.setT_draws (t : Bool) : (s.setT t).draws = s.draws := rfl

/-! ## setOrder -/

@[simp] theorem State.setOrder_build (x y : Int) : (s.setOrder x y).build = s.build := rfl
@[simp] theorem State.setOrder_b (x y : Int) : (s.setOrder x y).b = s.b := rfl
@[simp] theorem State.setOrder_vb (x y : Int) : (s.setOrder x y).vb = s.vb := rfl
@[simp] theorem State.setOrder_p (x y : Int) : (s.setOrder x y).p = s.p := rfl
@[simp] theorem State.setOrder_vp (x y : Int) : (s.setOrder x y).vp = s.vp := rfl
@[simp] theorem State.setOrder_flags (x y : Int) : (s.setOrder x y).flags = { s.flags with lt := decide (x < y), eq := decide (x = y), gt := decide (x > y) } := rfl
@[simp] theorem State.setOrder_pc (x y : Int) : (s.setOrder x y).pc = s.pc := rfl
@[simp] theorem State.setOrder_runState (x y : Int) : (s.setOrder x y).runState = s.runState := rfl
@[simp] theorem State.setOrder_done (x y : Int) : (s.setOrder x y).done = s.done := rfl
@[simp] theorem State.setOrder_err (x y : Int) : (s.setOrder x y).err = s.err := rfl
@[simp] theorem State.setOrder_hwErr (x y : Int) : (s.setOrder x y).hwErr = s.hwErr := rfl
@[simp] theorem State.setOrder_errCode (x y : Int) : (s.setOrder x y).errCode = s.errCode := rfl
@[simp] theorem State.setOrder_errPc (x y : Int) : (s.setOrder x y).errPc = s.errPc := rfl
@[simp] theorem State.setOrder_startPc (x y : Int) : (s.setOrder x y).startPc = s.startPc := rfl
@[simp] theorem State.setOrder_irqEn (x y : Int) : (s.setOrder x y).irqEn = s.irqEn := rfl
@[simp] theorem State.setOrder_slen (x y : Int) : (s.setOrder x y).slen = s.slen := rfl
@[simp] theorem State.setOrder_nonceW (x y : Int) : (s.setOrder x y).nonceW = s.nonceW := rfl
@[simp] theorem State.setOrder_nonceValid (x y : Int) : (s.setOrder x y).nonceValid = s.nonceValid := rfl
@[simp] theorem State.setOrder_imem (x y : Int) : (s.setOrder x y).imem = s.imem := rfl
@[simp] theorem State.setOrder_dmem (x y : Int) : (s.setOrder x y).dmem = s.dmem := rfl
@[simp] theorem State.setOrder_resetLine (x y : Int) : (s.setOrder x y).resetLine = s.resetLine := rfl
@[simp] theorem State.setOrder_inputs (x y : Int) : (s.setOrder x y).inputs = s.inputs := rfl
@[simp] theorem State.setOrder_reads (x y : Int) : (s.setOrder x y).reads = s.reads := rfl
@[simp] theorem State.setOrder_draws (x y : Int) : (s.setOrder x y).draws = s.draws := rfl

/-! ## protocolError -/

@[simp] theorem State.protocolError_build : (s.protocolError).build = s.build := rfl
@[simp] theorem State.protocolError_b : (s.protocolError).b = s.b := rfl
@[simp] theorem State.protocolError_vb : (s.protocolError).vb = s.vb := rfl
@[simp] theorem State.protocolError_p : (s.protocolError).p = s.p := rfl
@[simp] theorem State.protocolError_vp : (s.protocolError).vp = s.vp := rfl
@[simp] theorem State.protocolError_flags : (s.protocolError).flags = s.flags := rfl
@[simp] theorem State.protocolError_pc : (s.protocolError).pc = s.pc := rfl
@[simp] theorem State.protocolError_runState : (s.protocolError).runState = s.runState := rfl
@[simp] theorem State.protocolError_done : (s.protocolError).done = s.done := rfl
@[simp] theorem State.protocolError_err : (s.protocolError).err = s.err := rfl
@[simp] theorem State.protocolError_hwErr : (s.protocolError).hwErr = true := rfl
@[simp] theorem State.protocolError_errCode : (s.protocolError).errCode = s.errCode := rfl
@[simp] theorem State.protocolError_errPc : (s.protocolError).errPc = s.errPc := rfl
@[simp] theorem State.protocolError_startPc : (s.protocolError).startPc = s.startPc := rfl
@[simp] theorem State.protocolError_irqEn : (s.protocolError).irqEn = s.irqEn := rfl
@[simp] theorem State.protocolError_slen : (s.protocolError).slen = s.slen := rfl
@[simp] theorem State.protocolError_nonceW : (s.protocolError).nonceW = s.nonceW := rfl
@[simp] theorem State.protocolError_nonceValid : (s.protocolError).nonceValid = s.nonceValid := rfl
@[simp] theorem State.protocolError_imem : (s.protocolError).imem = s.imem := rfl
@[simp] theorem State.protocolError_dmem : (s.protocolError).dmem = s.dmem := rfl
@[simp] theorem State.protocolError_resetLine : (s.protocolError).resetLine = s.resetLine := rfl
@[simp] theorem State.protocolError_inputs : (s.protocolError).inputs = s.inputs := rfl
@[simp] theorem State.protocolError_reads : (s.protocolError).reads = s.reads := rfl
@[simp] theorem State.protocolError_draws : (s.protocolError).draws = s.draws := rfl

/-! ## writeStatus -/

@[simp] theorem State.writeStatus_build (u : Word) : (s.writeStatus u).build = s.build := rfl
@[simp] theorem State.writeStatus_b (u : Word) : (s.writeStatus u).b = s.b := rfl
@[simp] theorem State.writeStatus_vb (u : Word) : (s.writeStatus u).vb = s.vb := rfl
@[simp] theorem State.writeStatus_p (u : Word) : (s.writeStatus u).p = s.p := rfl
@[simp] theorem State.writeStatus_vp (u : Word) : (s.writeStatus u).vp = s.vp := rfl
@[simp] theorem State.writeStatus_flags (u : Word) : (s.writeStatus u).flags = s.flags := rfl
@[simp] theorem State.writeStatus_pc (u : Word) : (s.writeStatus u).pc = s.pc := rfl
@[simp] theorem State.writeStatus_runState (u : Word) : (s.writeStatus u).runState = s.runState := rfl
@[simp] theorem State.writeStatus_done (u : Word) : (s.writeStatus u).done = (s.done && !u.getLsbD 1) := rfl
@[simp] theorem State.writeStatus_err (u : Word) : (s.writeStatus u).err = (s.err && !u.getLsbD 2) := rfl
@[simp] theorem State.writeStatus_hwErr (u : Word) : (s.writeStatus u).hwErr = (s.hwErr && !u.getLsbD 4) := rfl
@[simp] theorem State.writeStatus_errCode (u : Word) : (s.writeStatus u).errCode = s.errCode := rfl
@[simp] theorem State.writeStatus_errPc (u : Word) : (s.writeStatus u).errPc = s.errPc := rfl
@[simp] theorem State.writeStatus_startPc (u : Word) : (s.writeStatus u).startPc = s.startPc := rfl
@[simp] theorem State.writeStatus_irqEn (u : Word) : (s.writeStatus u).irqEn = s.irqEn := rfl
@[simp] theorem State.writeStatus_slen (u : Word) : (s.writeStatus u).slen = s.slen := rfl
@[simp] theorem State.writeStatus_nonceW (u : Word) : (s.writeStatus u).nonceW = s.nonceW := rfl
@[simp] theorem State.writeStatus_nonceValid (u : Word) : (s.writeStatus u).nonceValid = s.nonceValid := rfl
@[simp] theorem State.writeStatus_imem (u : Word) : (s.writeStatus u).imem = s.imem := rfl
@[simp] theorem State.writeStatus_dmem (u : Word) : (s.writeStatus u).dmem = s.dmem := rfl
@[simp] theorem State.writeStatus_resetLine (u : Word) : (s.writeStatus u).resetLine = s.resetLine := rfl
@[simp] theorem State.writeStatus_inputs (u : Word) : (s.writeStatus u).inputs = s.inputs := rfl
@[simp] theorem State.writeStatus_reads (u : Word) : (s.writeStatus u).reads = s.reads := rfl
@[simp] theorem State.writeStatus_draws (u : Word) : (s.writeStatus u).draws = s.draws := rfl

/-! ## writeNonceCtrl -/

@[simp] theorem State.writeNonceCtrl_build (u : Word) : (s.writeNonceCtrl u).build = s.build := rfl
@[simp] theorem State.writeNonceCtrl_b (u : Word) : (s.writeNonceCtrl u).b = s.b := rfl
@[simp] theorem State.writeNonceCtrl_vb (u : Word) : (s.writeNonceCtrl u).vb = s.vb := rfl
@[simp] theorem State.writeNonceCtrl_p (u : Word) : (s.writeNonceCtrl u).p = s.p := rfl
@[simp] theorem State.writeNonceCtrl_vp (u : Word) : (s.writeNonceCtrl u).vp = s.vp := rfl
@[simp] theorem State.writeNonceCtrl_flags (u : Word) : (s.writeNonceCtrl u).flags = s.flags := rfl
@[simp] theorem State.writeNonceCtrl_pc (u : Word) : (s.writeNonceCtrl u).pc = s.pc := rfl
@[simp] theorem State.writeNonceCtrl_runState (u : Word) : (s.writeNonceCtrl u).runState = s.runState := rfl
@[simp] theorem State.writeNonceCtrl_done (u : Word) : (s.writeNonceCtrl u).done = s.done := rfl
@[simp] theorem State.writeNonceCtrl_err (u : Word) : (s.writeNonceCtrl u).err = s.err := rfl
@[simp] theorem State.writeNonceCtrl_hwErr (u : Word) : (s.writeNonceCtrl u).hwErr = s.hwErr := rfl
@[simp] theorem State.writeNonceCtrl_errCode (u : Word) : (s.writeNonceCtrl u).errCode = s.errCode := rfl
@[simp] theorem State.writeNonceCtrl_errPc (u : Word) : (s.writeNonceCtrl u).errPc = s.errPc := rfl
@[simp] theorem State.writeNonceCtrl_startPc (u : Word) : (s.writeNonceCtrl u).startPc = s.startPc := rfl
@[simp] theorem State.writeNonceCtrl_irqEn (u : Word) : (s.writeNonceCtrl u).irqEn = s.irqEn := rfl
@[simp] theorem State.writeNonceCtrl_slen (u : Word) : (s.writeNonceCtrl u).slen = s.slen := rfl
@[simp] theorem State.writeNonceCtrl_nonceW (u : Word) : (s.writeNonceCtrl u).nonceW = s.nonceW := rfl
@[simp] theorem State.writeNonceCtrl_nonceValid (u : Word) : (s.writeNonceCtrl u).nonceValid = (s.nonceValid || u.getLsbD 0) := rfl
@[simp] theorem State.writeNonceCtrl_imem (u : Word) : (s.writeNonceCtrl u).imem = s.imem := rfl
@[simp] theorem State.writeNonceCtrl_dmem (u : Word) : (s.writeNonceCtrl u).dmem = s.dmem := rfl
@[simp] theorem State.writeNonceCtrl_resetLine (u : Word) : (s.writeNonceCtrl u).resetLine = s.resetLine := rfl
@[simp] theorem State.writeNonceCtrl_inputs (u : Word) : (s.writeNonceCtrl u).inputs = s.inputs := rfl
@[simp] theorem State.writeNonceCtrl_reads (u : Word) : (s.writeNonceCtrl u).reads = s.reads := rfl
@[simp] theorem State.writeNonceCtrl_draws (u : Word) : (s.writeNonceCtrl u).draws = s.draws := rfl

/-! ## hostRead -/

@[simp] theorem State.hostRead_build (o : Nat) : (s.hostRead o).build = s.build := rfl
@[simp] theorem State.hostRead_b (o : Nat) : (s.hostRead o).b = s.b := rfl
@[simp] theorem State.hostRead_vb (o : Nat) : (s.hostRead o).vb = s.vb := rfl
@[simp] theorem State.hostRead_p (o : Nat) : (s.hostRead o).p = s.p := rfl
@[simp] theorem State.hostRead_vp (o : Nat) : (s.hostRead o).vp = s.vp := rfl
@[simp] theorem State.hostRead_flags (o : Nat) : (s.hostRead o).flags = s.flags := rfl
@[simp] theorem State.hostRead_pc (o : Nat) : (s.hostRead o).pc = s.pc := rfl
@[simp] theorem State.hostRead_runState (o : Nat) : (s.hostRead o).runState = s.runState := rfl
@[simp] theorem State.hostRead_done (o : Nat) : (s.hostRead o).done = s.done := rfl
@[simp] theorem State.hostRead_err (o : Nat) : (s.hostRead o).err = s.err := rfl
@[simp] theorem State.hostRead_hwErr (o : Nat) : (s.hostRead o).hwErr = s.hwErr := rfl
@[simp] theorem State.hostRead_errCode (o : Nat) : (s.hostRead o).errCode = s.errCode := rfl
@[simp] theorem State.hostRead_errPc (o : Nat) : (s.hostRead o).errPc = s.errPc := rfl
@[simp] theorem State.hostRead_startPc (o : Nat) : (s.hostRead o).startPc = s.startPc := rfl
@[simp] theorem State.hostRead_irqEn (o : Nat) : (s.hostRead o).irqEn = s.irqEn := rfl
@[simp] theorem State.hostRead_slen (o : Nat) : (s.hostRead o).slen = s.slen := rfl
@[simp] theorem State.hostRead_nonceW (o : Nat) : (s.hostRead o).nonceW = s.nonceW := rfl
@[simp] theorem State.hostRead_nonceValid (o : Nat) : (s.hostRead o).nonceValid = s.nonceValid := rfl
@[simp] theorem State.hostRead_imem (o : Nat) : (s.hostRead o).imem = s.imem := rfl
@[simp] theorem State.hostRead_dmem (o : Nat) : (s.hostRead o).dmem = s.dmem := rfl
@[simp] theorem State.hostRead_resetLine (o : Nat) : (s.hostRead o).resetLine = s.resetLine := rfl
@[simp] theorem State.hostRead_inputs (o : Nat) : (s.hostRead o).inputs = s.inputs := rfl
@[simp] theorem State.hostRead_reads (o : Nat) : (s.hostRead o).reads = s.hostReadValue o :: s.reads := rfl
@[simp] theorem State.hostRead_draws (o : Nat) : (s.hostRead o).draws = s.draws + drawsPerHostRead := rfl

/-! ## releaseReset -/

@[simp] theorem State.releaseReset_build : (s.releaseReset).build = s.build := rfl
@[simp] theorem State.releaseReset_b : (s.releaseReset).b = s.b := rfl
@[simp] theorem State.releaseReset_vb : (s.releaseReset).vb = s.vb := rfl
@[simp] theorem State.releaseReset_p : (s.releaseReset).p = s.p := rfl
@[simp] theorem State.releaseReset_vp : (s.releaseReset).vp = s.vp := rfl
@[simp] theorem State.releaseReset_flags : (s.releaseReset).flags = s.flags := rfl
@[simp] theorem State.releaseReset_pc : (s.releaseReset).pc = s.pc := rfl
@[simp] theorem State.releaseReset_runState : (s.releaseReset).runState = s.runState := rfl
@[simp] theorem State.releaseReset_done : (s.releaseReset).done = s.done := rfl
@[simp] theorem State.releaseReset_err : (s.releaseReset).err = s.err := rfl
@[simp] theorem State.releaseReset_hwErr : (s.releaseReset).hwErr = s.hwErr := rfl
@[simp] theorem State.releaseReset_errCode : (s.releaseReset).errCode = s.errCode := rfl
@[simp] theorem State.releaseReset_errPc : (s.releaseReset).errPc = s.errPc := rfl
@[simp] theorem State.releaseReset_startPc : (s.releaseReset).startPc = s.startPc := rfl
@[simp] theorem State.releaseReset_irqEn : (s.releaseReset).irqEn = s.irqEn := rfl
@[simp] theorem State.releaseReset_slen : (s.releaseReset).slen = s.slen := rfl
@[simp] theorem State.releaseReset_nonceW : (s.releaseReset).nonceW = s.nonceW := rfl
@[simp] theorem State.releaseReset_nonceValid : (s.releaseReset).nonceValid = s.nonceValid := rfl
@[simp] theorem State.releaseReset_imem : (s.releaseReset).imem = s.imem := rfl
@[simp] theorem State.releaseReset_dmem : (s.releaseReset).dmem = s.dmem := rfl
@[simp] theorem State.releaseReset_resetLine : (s.releaseReset).resetLine = false := rfl
@[simp] theorem State.releaseReset_inputs : (s.releaseReset).inputs = s.inputs := rfl
@[simp] theorem State.releaseReset_reads : (s.releaseReset).reads = s.reads := rfl
@[simp] theorem State.releaseReset_draws : (s.releaseReset).draws = s.draws := rfl

end Sys2Proof.Machine
end

