-- ==== Sys2Proof/Laws/Ops.lean ====
section
/-! SUPPORT. What each shared operation can do, once: sequencing and the end of an instruction, checks,
register access, the two memories and their canonical form, the fetch. -/

namespace Sys2Proof.Machine

/-! ## Results -/

section Results
variable {α β : Type} {s t : State}

@[simp] theorem Result.bind_ok (x : α) (f : α → Result β) :
    ((Except.ok x : Result α) >>= f) = f x := rfl

@[simp] theorem Result.bind_error (e : EngineError) (f : α → Result β) :
    ((Except.error e : Result α) >>= f) = .error e := rfl

@[simp] theorem Result.pure_eq_ok (x : α) : (pure x : Result α) = .ok x := rfl

/-- A sequence succeeds exactly where both parts do. -/
theorem Result.bind_eq_ok {r : Result α} {f : α → Result β} {y : β} :
    (r >>= f) = .ok y ↔ ∃ x, r = .ok x ∧ f x = .ok y := by
  cases r <;> simp

/-- A sequence raises what its first failing part raises. -/
theorem Result.bind_eq_error {r : Result α} {f : α → Result β} {e : EngineError} :
    (r >>= f) = .error e ↔ r = .error e ∨ ∃ x, r = .ok x ∧ f x = .error e := by
  cases r <;> simp

@[simp] theorem finish_ok : finish s (.ok t) = .next t := rfl

@[simp] theorem finish_error (e : EngineError) : finish s (.error e) = .next (s.raise e) := rfl

/-- All `finish` can answer: the instruction's writes, or the error entry. -/
theorem finish_eq_next {r : Result State} :
    finish s r = .next t ↔ r = .ok t ∨ ∃ e, r = .error e ∧ t = s.raise e := by
  cases r <;> simp [finish, eq_comm]

/-- `finish` always answers a next state. -/
theorem finish_completes (r : Result State) : ∃ t, finish s r = .next t := by
  cases r <;> simp [finish]

@[simp] theorem require_true (e : EngineError) : require true e = .ok () := rfl

@[simp] theorem require_false (e : EngineError) : require false e = .error e := rfl

theorem require_eq_ok {p : Bool} {e : EngineError} {u : Unit} : require p e = .ok u ↔ p = true := by
  cases p <;> simp

theorem require_eq_error {p : Bool} {e f : EngineError} :
    require p e = .error f ↔ p = false ∧ e = f := by
  cases p <;> simp

end Results

/-! ## Registers -/

section Registers
variable {s t : State}

theorem State.readB_valid {r : BReg} (h : s.vb[r] = true) : s.readB r = .ok s.b[r] := by
  simp [State.readB, h]

theorem State.readB_invalid {r : BReg} (h : s.vb[r] = false) : s.readB r = .error .uninitOperand := by
  simp [State.readB, h]

theorem State.readP_valid {r : PReg} (h : s.vp[r] = true) : s.readP r = .ok s.p[r] := by
  simp [State.readP, h]

theorem State.readP_invalid {r : PReg} (h : s.vp[r] = false) : s.readP r = .error .uninitOperand := by
  simp [State.readP, h]

theorem State.readB_eq_ok {r : BReg} {v : Int} :
    s.readB r = .ok v ↔ s.vb[r] = true ∧ s.b[r] = v := by
  unfold State.readB
  split <;> simp_all

theorem State.readB_eq_error {r : BReg} {e : EngineError} :
    s.readB r = .error e ↔ s.vb[r] = false ∧ e = .uninitOperand := by
  cases h : s.vb[r] <;> simp [State.readB, h, eq_comm (a := e)]

theorem State.readP_eq_ok {r : PReg} {pt : Point} :
    s.readP r = .ok pt ↔ s.vp[r] = true ∧ s.p[r] = pt := by
  unfold State.readP
  split <;> simp_all

theorem State.readP_eq_error {r : PReg} {e : EngineError} :
    s.readP r = .error e ↔ s.vp[r] = false ∧ e = .uninitOperand := by
  cases h : s.vp[r] <;> simp [State.readP, h, eq_comm (a := e)]

theorem State.readB2_valid {b c : BReg} (hb : s.vb[b] = true) (hc : s.vb[c] = true) :
    s.readB2 b c = .ok (s.b[b], s.b[c]) := by
  simp [State.readB2, State.readB_valid hb, State.readB_valid hc]

theorem State.readB2_eq_ok {b c : BReg} {xy : Int × Int} :
    s.readB2 b c = .ok xy ↔
      s.vb[b] = true ∧ s.vb[c] = true ∧ s.b[b] = xy.1 ∧ s.b[c] = xy.2 := by
  obtain ⟨x, y⟩ := xy
  simp only [State.readB2, Result.bind_eq_ok, State.readB_eq_ok, Result.pure_eq_ok]
  constructor
  · rintro ⟨_, ⟨hb, rfl⟩, _, ⟨hc, rfl⟩, h⟩
    simp_all
  · rintro ⟨hb, hc, rfl, rfl⟩
    exact ⟨_, ⟨hb, rfl⟩, _, ⟨hc, rfl⟩, rfl⟩

/-- Two sources fail exactly where one of them is invalid. -/
theorem State.readB2_eq_error {b c : BReg} {e : EngineError} :
    s.readB2 b c = .error e ↔ (s.vb[b] = false ∨ s.vb[c] = false) ∧ e = .uninitOperand := by
  unfold State.readB2 State.readB
  cases hb : s.vb[b] <;> cases hc : s.vb[c] <;> simp [eq_comm]

theorem State.writeB_fits {r : BReg} {v : Int} (h : s.fits v = true) :
    s.writeB r v = .ok (s.setB r v) := by
  simp [State.writeB, h]

theorem State.writeB_overflow {r : BReg} {v : Int} (h : s.fits v = false) :
    s.writeB r v = .error .regOverflow := by
  simp [State.writeB, h]

theorem State.writeB_eq_ok {r : BReg} {v : Int} :
    s.writeB r v = .ok t ↔ s.fits v = true ∧ t = s.setB r v := by
  cases h : s.fits v <;> simp [State.writeB, h, eq_comm (a := t)]

theorem State.writeB_eq_error {r : BReg} {v : Int} {e : EngineError} :
    s.writeB r v = .error e ↔ s.fits v = false ∧ e = .regOverflow := by
  cases h : s.fits v <;> simp [State.writeB, h, eq_comm (a := e)]

/-- All that the end of a ZN instruction does (10_state.md R28). -/
theorem State.result_eq_ok {a : BReg} {v : Int} :
    s.result a v = .ok t ↔ s.fits v = true ∧ t = ((s.setB a v).setZN v).nextPc := by
  cases h : s.fits v <;> simp [State.result, State.writeB, h, eq_comm (a := t)]

theorem State.result_eq_error {a : BReg} {v : Int} {e : EngineError} :
    s.result a v = .error e ↔ s.fits v = false ∧ e = .regOverflow := by
  cases h : s.fits v <;> simp [State.result, State.writeB, h, eq_comm (a := e)]

theorem State.result_fits {a : BReg} {v : Int} (h : s.fits v = true) :
    s.result a v = .ok ((s.setB a v).setZN v).nextPc :=
  State.result_eq_ok.2 ⟨h, rfl⟩

theorem requireNonNeg_eq_ok {x : Int} {u : Unit} : requireNonNeg x = .ok u ↔ 0 ≤ x := by
  simp [requireNonNeg, require_eq_ok]

theorem requireNonNeg_eq_error {x : Int} {e : EngineError} :
    requireNonNeg x = .error e ↔ x < 0 ∧ e = .negativeOperand := by
  simp only [requireNonNeg, require_eq_error, decide_eq_false_iff_not, not_le, eq_comm (a := e)]

theorem requireModulus_eq_ok {m : Int} {u : Unit} : requireModulus m = .ok u ↔ 0 < m := by
  simp only [requireModulus, Result.bind_eq_ok, require_eq_ok, decide_eq_true_eq]
  constructor
  · rintro ⟨_, _, h⟩
    exact h
  · exact fun h => ⟨(), by omega, h⟩

theorem requireModulus_eq_error {m : Int} {e : EngineError} :
    requireModulus m = .error e ↔
      (m = 0 ∧ e = .divisionByZero) ∨ (m < 0 ∧ e = .badModulus) := by
  simp only [requireModulus, Result.bind_eq_error, require_eq_ok, require_eq_error,
    decide_eq_true_eq, decide_eq_false_iff_not]
  constructor
  · rintro (⟨h, rfl⟩ | ⟨_, h, h', rfl⟩)
    · exact .inl ⟨by omega, rfl⟩
    · exact .inr ⟨by omega, rfl⟩
  · rintro (⟨h, rfl⟩ | ⟨h, rfl⟩)
    · exact .inl ⟨by omega, rfl⟩
    · exact .inr ⟨(), by omega, by omega, rfl⟩

end Registers

/-! ## Memories -/

section Cells
variable {α : Type}

/-- A read after a write at the same address gives the value written. -/
theorem Cells.read_write_same (m : List (Nat × α)) (a : Nat) (v : α) :
    Cells.read (Cells.write m a v) a = some v := by
  induction m with
  | nil => simp [Cells.write, Cells.read]
  | cons c m ih =>
    obtain ⟨k, w⟩ := c
    simp only [Cells.write]
    split_ifs with h₁ h₂
    · simp [Cells.read]
    · simp [Cells.read]
    · simp only [Cells.read]
      rw [if_neg (by omega), ih]

/-- A write leaves every other address alone. -/
theorem Cells.read_write_other (m : List (Nat × α)) {a a' : Nat} (v : α) (h : a' ≠ a) :
    Cells.read (Cells.write m a v) a' = Cells.read m a' := by
  induction m with
  | nil => simp [Cells.write, Cells.read, Ne.symm h]
  | cons c m ih =>
    obtain ⟨k, w⟩ := c
    simp only [Cells.write]
    split_ifs with h₁ h₂
    · simp [Cells.read, Ne.symm h]
    · subst h₂
      simp [Cells.read, Ne.symm h]
    · simp only [Cells.read, ih]

theorem Cells.read_write (m : List (Nat × α)) (a a' : Nat) (v : α) :
    Cells.read (Cells.write m a v) a' = if a' = a then some v else Cells.read m a' := by
  split_ifs with h
  · rw [h, Cells.read_write_same]
  · exact Cells.read_write_other m v h

/-- A write inside the bound keeps the canonical form. -/
theorem Cells.write_keeps_wfFrom {bound lo : Nat} {m : List (Nat × α)} {a : Nat} (v : α)
    (h : Cells.wfFrom bound lo m = true) (hlo : lo ≤ a) (hb : a < bound) :
    Cells.wfFrom bound lo (Cells.write m a v) = true := by
  induction m generalizing lo with
  | nil => simp [Cells.write, Cells.wfFrom, hlo, hb]
  | cons c m ih =>
    obtain ⟨k, w⟩ := c
    simp only [Cells.wfFrom, Bool.and_eq_true, decide_eq_true_eq] at h
    obtain ⟨⟨h₁, h₂⟩, h₃⟩ := h
    simp only [Cells.write]
    split_ifs with h₄ h₅
    · simp only [Cells.wfFrom, Bool.and_eq_true, decide_eq_true_eq]
      exact ⟨⟨hlo, hb⟩, ⟨by omega, h₂⟩, h₃⟩
    · subst h₅
      simp only [Cells.wfFrom, Bool.and_eq_true, decide_eq_true_eq]
      exact ⟨⟨h₁, h₂⟩, h₃⟩
    · simp only [Cells.wfFrom, Bool.and_eq_true, decide_eq_true_eq]
      exact ⟨⟨h₁, h₂⟩, ih h₃ (by omega)⟩

theorem Memory.write_keeps_wf {bound : Nat} {m : List (Nat × α)} {a : Nat} (v : α)
    (h : Memory.wf bound m = true) (hb : a < bound) : Memory.wf bound (Cells.write m a v) = true :=
  Cells.write_keeps_wfFrom v h (Nat.zero_le _) hb

/-- A memory in canonical form lists no address at or past its bound, and none below its start. -/
theorem Cells.read_eq_none {bound lo : Nat} {m : List (Nat × α)} {a : Nat}
    (h : Cells.wfFrom bound lo m = true) (ha : a < lo ∨ bound ≤ a) : Cells.read m a = none := by
  induction m generalizing lo with
  | nil => rfl
  | cons c m ih =>
    obtain ⟨k, w⟩ := c
    simp only [Cells.wfFrom, Bool.and_eq_true, decide_eq_true_eq] at h
    simp only [Cells.read]
    rw [if_neg (by omega), ih h.2 (by omega)]

/-- Memories in canonical form that read alike at every address are equal data. -/
theorem Cells.ext_of_wf {bound lo : Nat} {m m' : List (Nat × α)}
    (h : Cells.wfFrom bound lo m = true) (h' : Cells.wfFrom bound lo m' = true)
    (hr : ∀ a, Cells.read m a = Cells.read m' a) : m = m' := by
  induction m generalizing lo m' with
  | nil =>
    cases m' with
    | nil => rfl
    | cons c m' => simpa [Cells.read] using hr c.1
  | cons c m ih =>
    obtain ⟨k, w⟩ := c
    cases m' with
    | nil => simpa [Cells.read] using hr k
    | cons c' m' =>
      obtain ⟨k', w'⟩ := c'
      simp only [Cells.wfFrom, Bool.and_eq_true, decide_eq_true_eq] at h h'
      have hk : k = k' := by
        rcases Nat.lt_trichotomy k k' with hlt | heq | hgt
        · have := hr k
          simp only [Cells.read, if_true, if_neg (Nat.ne_of_gt hlt)] at this
          rw [Cells.read_eq_none h'.2 (Or.inl (by omega))] at this
          simp at this
        · exact heq
        · have := hr k'
          simp only [Cells.read, if_true, if_neg (Nat.ne_of_gt hgt)] at this
          rw [Cells.read_eq_none h.2 (Or.inl (by omega))] at this
          simp at this
      subst hk
      have hw : w = w' := by simpa [Cells.read] using hr k
      subst hw
      have hm : m = m' := by
        refine ih h.2 h'.2 fun a => ?_
        by_cases ha : k = a
        · subst ha
          rw [Cells.read_eq_none h.2 (Or.inl (by omega)), Cells.read_eq_none h'.2 (Or.inl (by omega))]
        · simpa [Cells.read, ha] using hr a
      rw [hm]

end Cells

section Bytes

/-- Bytes stored below the bound keep the canonical form. -/
theorem writeBytes_keeps_wf {bound : Nat} {m : List Host.Cell} {a : Nat} {xs : List Byte}
    (h : Memory.wf bound m = true) (hb : a + xs.length ≤ bound) :
    Memory.wf bound (writeBytes m a xs) = true := by
  induction xs generalizing m a with
  | nil => exact h
  | cons x xs ih =>
    simp only [List.length_cons] at hb
    exact ih (Memory.write_keeps_wf x h (by omega)) (by omega)

/-- Bytes stored leave every address outside them alone. -/
theorem read_writeBytes_outside {m : List Host.Cell} {a a' : Nat} {xs : List Byte}
    (h : a' < a ∨ a + xs.length ≤ a') : Cells.read (writeBytes m a xs) a' = Cells.read m a' := by
  induction xs generalizing m a with
  | nil => rfl
  | cons x xs ih =>
    simp only [List.length_cons] at h
    rw [writeBytes, ih (by omega), Cells.read_write_other m x (by omega)]

/-- Byte j of the bytes stored is read at address a + j. -/
theorem read_writeBytes_inside {m : List Host.Cell} {a j : Nat} {xs : List Byte} (h : j < xs.length) :
    Cells.read (writeBytes m a xs) (a + j) = some xs[j] := by
  induction xs generalizing m a j with
  | nil => simp at h
  | cons x xs ih =>
    cases j with
    | zero =>
      rw [writeBytes, read_writeBytes_outside (by omega), Nat.add_zero]
      exact Cells.read_write_same m a x
    | succ j =>
      simp only [List.length_cons] at h
      have := ih (m := Cells.write m a x) (a := a + 1) (j := j) (by omega)
      rw [writeBytes, show a + (j + 1) = a + 1 + j by omega, this]
      simp

theorem State.memWrite_eq_ok {s t : State} {a : Nat} {xs : List Byte} :
    s.memWrite a xs = .ok t ↔
      a + xs.length ≤ s.build.dmemBytes ∧ t = { s with dmem := writeBytes s.dmem a xs } := by
  unfold State.memWrite State.inDmem
  split <;> simp_all [eq_comm]

theorem State.memWrite_eq_error {s : State} {a : Nat} {xs : List Byte} {e : EngineError} :
    s.memWrite a xs = .error e ↔ s.build.dmemBytes < a + xs.length ∧ e = .memRange := by
  unfold State.memWrite State.inDmem
  split <;> simp_all [eq_comm]

@[simp] theorem State.dmemBytes_length (s : State) (a n : Nat) : (s.dmemBytes a n).length = n := by
  simp [State.dmemBytes]

/-- A written byte is read as it was written (20_memory.md R50). -/
theorem State.dmemByte_written {s : State} {a k : Nat} {x : Byte} (h : Cells.read s.dmem a = some x) :
    s.dmemByte a k = x := by
  simp [State.dmemByte, h]

/-- All that a load can do: MEM_RANGE, or its rest on the bytes read with the draws used up. -/
theorem memReadThen_eq {a n : Nat} {s : State} {rest : List Byte → State → Result State} :
    memReadThen a n s rest =
      if a + n ≤ s.build.dmemBytes then
        finish (s.useDraws n) (rest (s.dmemBytes a n) (s.useDraws n))
      else .next (s.raise .memRange) := by
  unfold memReadThen State.inDmem
  split <;> simp_all

end Bytes

/-! ## Fetch -/

/-- All that a fetch can do (20_memory.md R56). -/
theorem State.fetch_eq_some {s t : State} {w : Word} :
    s.fetch = some (w, t) ↔
      s.pc.toNat < s.build.imemWords ∧
        ((Cells.read s.imem s.pc.toNat = some w ∧ t = s) ∨
          (Cells.read s.imem s.pc.toNat = none ∧ w = Config.drawWord s.draws ∧ t = s.useDraws 1)) := by
  unfold State.fetch
  split
  · rename_i h
    cases hr : Cells.read s.imem s.pc.toNat <;> simp [h, eq_comm]
  · simp_all

theorem State.fetch_eq_none {s : State} : s.fetch = none ↔ s.build.imemWords ≤ s.pc.toNat := by
  unfold State.fetch
  split
  · rename_i h
    cases hr : Cells.read s.imem s.pc.toNat <;> simp [h]
  · simp_all

end Sys2Proof.Machine
end

