-- ==== Sys2Proof/Laws/Exec.lean ====
section
/-! SUPPORT. What the operations shared by the meanings can do, one lemma each, and all that an instruction can
do to the state, once: later proofs split on `Effect` and unfold no meaning. -/

namespace Sys2Proof.Machine

variable {s t : State} {a : BReg} {addr : BitVec 12} {len : BitVec 8}

/-! ## The model's updates are those of Safety.lean -/

theorem raise_eq_stopped (e : EngineError) (s : State) : s.raise e = stopped e.code s := rfl

theorem setB_setZN_nextPc_eq_wrote (a : BReg) (v : Int) (s : State) :
    ((s.setB a v).setZN v).nextPc = wrote a v s := rfl

theorem setP_nextPc_eq_wrotePoint (a : PReg) (pt : Point) (s : State) :
    (s.setP a pt).nextPc = wrotePoint a pt s := rfl

theorem setT_nextPc_eq_wroteT (b : Bool) (s : State) : (s.setT b).nextPc = wroteT b s := rfl

theorem useDraws_eq_drew (k : Nat) (s : State) : s.useDraws k = drew k s := rfl

theorem consumeNonce_eq_consumed (s : State) : s.consumeNonce = consumed s := rfl

theorem awaitNonce_eq_waiting (held : SignOperands) (s : State) : s.awaitNonce held = waiting held s := rfl

@[simp] theorem drew_zero (s : State) : drew 0 s = s := rfl

theorem fits_iff {v : Int} : s.fits v = true ↔ v.natAbs < 2 ^ s.build.maxBits := by
  simp [State.fits]

theorem not_fits_iff {v : Int} : s.fits v = false ↔ 2 ^ s.build.maxBits ≤ v.natAbs := by
  simp [State.fits]

/-! ## Results, as the statements say them -/

theorem result_ok {v : Int} (h : v.natAbs < 2 ^ s.build.maxBits) : s.result a v = .ok (wrote a v s) :=
  State.result_fits (fits_iff.2 h)

theorem result_overflow {v : Int} (h : 2 ^ s.build.maxBits ≤ v.natAbs) :
    s.result a v = .error .regOverflow :=
  State.result_eq_error.2 ⟨not_fits_iff.2 h, rfl⟩

theorem readB2_of_valid2 {b c : BReg} (h : Valid2 s b c) : s.readB2 b c = .ok (s.b[b], s.b[c]) :=
  State.readB2_valid h.1 h.2

theorem readB2_of_not_valid2 {b c : BReg} (h : ¬ Valid2 s b c) : s.readB2 b c = .error .uninitOperand := by
  refine State.readB2_eq_error.2 ?_
  by_cases hb : s.vb[b] = true
  · have hc : ¬ s.vb[c] = true := fun hc => h ⟨hb, hc⟩
    simp_all
  · simp_all

theorem requireNonNeg_ok {x : Int} (h : 0 ≤ x) : requireNonNeg x = .ok () := requireNonNeg_eq_ok.2 h

theorem requireNonNeg_neg {x : Int} (h : x < 0) : requireNonNeg x = .error .negativeOperand :=
  requireNonNeg_eq_error.2 ⟨h, rfl⟩

theorem requireModulus_ok {m : Int} (h : 0 < m) : requireModulus m = .ok () := requireModulus_eq_ok.2 h

theorem requireModulus_zero : requireModulus 0 = .error .divisionByZero :=
  requireModulus_eq_error.2 (.inl ⟨rfl, rfl⟩)

theorem requireModulus_neg {m : Int} (h : m < 0) : requireModulus m = .error .badModulus :=
  requireModulus_eq_error.2 (.inr ⟨h, rfl⟩)

/-! ## All that an instruction can do -/

/-- The effects an instruction can have, each with what it says of the instruction. -/
inductive Effect (i : Instr) (s : State) : State → Prop where
  /-- An error of its rule, after k draws. -/
  | error (k : Nat) (e : EngineError) : Effect i s ((s.useDraws k).raise e)
  /-- An error of a SIGN after it consumed a nonce. -/
  | signError (a b c : BReg) (lows : Bool) (hi : i = .sign a b c lows) (hn : s.nonceValid = true)
      (hg : groupFits a 3 = true) (e : EngineError) : Effect i s (s.consumeNonce.raise e)
  /-- A result with Z and N (10_state.md R28). -/
  | result (a : BReg) (v : Int) (k : Nat) (hi : znDestination i = some a) (hv : s.fits v = true) :
      Effect i s ((((s.useDraws k).setB a v).setZN v).nextPc)
  /-- A point. -/
  | point (a : PReg) (pt : Point) (hi : pointDestination i = some a) : Effect i s (s.setP a pt).nextPc
  /-- T. -/
  | test (b : Bool) (hi : writesT i = true) : Effect i s (s.setT b).nextPc
  /-- LT, EQ and GT. -/
  | order (b c : BReg) (x y : Int) (hi : i = .cmp b c) : Effect i s (s.setOrder x y).nextPc
  /-- A store of bytes at its address. -/
  | store (addr : Nat) (bytes : List Byte) (hi : storesAt i = some addr)
      (hr : addr + bytes.length ≤ s.build.dmemBytes) :
      Effect i s ((({ s with dmem := writeBytes s.dmem addr bytes } : State).setSlen bytes.length).nextPc)
  /-- The three results of a SIGN. -/
  | signed (a b c : BReg) (lows : Bool) (r sg v : Int) (hi : i = .sign a b c lows)
      (hn : s.nonceValid = true) (hg : groupFits a 3 = true)
      (hr : s.fits r = true) (hs : s.fits sg = true) (hv : s.fits v = true) :
      Effect i s ((((s.consumeNonce.setB (groupReg a 0) r).setB (groupReg a 1) sg).setB
        (groupReg a 2) v).nextPc)
  /-- A SIGN that finds no nonce. -/
  | waits (a b c : BReg) (lows : Bool) (hi : i = .sign a b c lows) (hn : s.nonceValid = false)
      (hg : groupFits a 3 = true) : Effect i s (s.awaitNonce ⟨a, b, c, lows⟩)
  /-- A SIGN that needs another nonce. -/
  | retries (a b c : BReg) (lows : Bool) (hi : i = .sign a b c lows) (hn : s.nonceValid = true)
      (hg : groupFits a 3 = true) : Effect i s (s.consumeNonce.awaitNonce ⟨a, b, c, lows⟩)
  /-- NOP, and a BR that is not taken. -/
  | passes (hi : i = .nop ∨ ∃ cond target, i = .br cond target ∧ s.flags.holds cond = false) :
      Effect i s s.nextPc
  /-- HALT. -/
  | halts (hi : i = .halt) : Effect i s s.stop
  /-- JMP, and a BR that is taken. -/
  | jumps (target : BitVec 16)
      (hi : i = .jmp target ∨ ∃ cond, i = .br cond target ∧ s.flags.holds cond = true) :
      Effect i s (s.jump target)

theorem Effect.raise {i : Instr} (e : EngineError) : Effect i s (s.raise e) := Effect.error 0 e

/-- An instruction that ends in `finish` has an effect of this list if its successful end has. -/
theorem Effect.of_finish {i : Instr} {r : Result State} (k : Nat)
    (h : finish (s.useDraws k) r = .next t) (hr : ∀ u, r = .ok u → Effect i s u) : Effect i s t := by
  obtain h | ⟨e, -, rfl⟩ := finish_eq_next.1 h
  · exact hr t h
  · exact .error k e

/-- The end of an instruction of the ZN list. -/
theorem Effect.of_result {i : Instr} {v : Int} (k : Nat) (hi : znDestination i = some a)
    (h : (s.useDraws k).result a v = .ok t) : Effect i s t := by
  obtain ⟨hv, rfl⟩ := State.result_eq_ok.1 h
  exact .result a v k hi hv

/-- All that a load can do. -/
theorem Effect.of_memReadThen {i : Instr} {n : Nat} {m : Nat} {rest : List Byte → State → Result State}
    (h : memReadThen m n s rest = .next t)
    (hr : ∀ bytes u, rest bytes (s.useDraws n) = .ok u → Effect i s u) : Effect i s t := by
  rw [memReadThen_eq] at h
  split at h
  · exact .of_finish n h fun u => hr _ u
  · obtain rfl : s.raise .memRange = t := by simpa using h
    exact .raise _

/-- All that a string load can do. -/
theorem Effect.of_loadString {i : Instr} {r : Radix} (hi : znDestination i = some a)
    (h : loadString r a addr len s = .next t) : Effect i s t := by
  refine .of_memReadThen h fun bytes u hu => ?_
  cases hp : parse? r bytes with
  | none => simp [hp] at hu
  | some v =>
    rw [hp] at hu
    exact .of_result _ hi hu

/-- The end of a store. -/
theorem Effect.of_memWrite {i : Instr} {m L : Nat} {bytes : List Byte}
    (hi : storesAt i = some m) (hL : bytes.length = L)
    (h : (s.memWrite m bytes >>= fun u => pure (u.setSlen L).nextPc) = .ok t) : Effect i s t := by
  obtain ⟨u, hu, ht⟩ := Result.bind_eq_ok.1 h
  obtain ⟨hr, rfl⟩ := State.memWrite_eq_ok.1 hu
  obtain rfl : _ = t := by simpa using ht
  subst hL
  exact .store m bytes hi hr

/-- The two-source instructions of the ZN list with checks between. -/
theorem Effect.of_readB2_result {i : Instr} {b c : BReg} {g : Int × Int → Result Unit}
    {f : Int × Int → Int} (hi : znDestination i = some a)
    (h : finish s (s.readB2 b c >>= fun xy => g xy >>= fun _ => s.result a (f xy)) = .next t) :
    Effect i s t := by
  refine .of_finish 0 h fun u hu => ?_
  obtain ⟨_, -, hu⟩ := Result.bind_eq_ok.1 hu
  obtain ⟨_, -, hu⟩ := Result.bind_eq_ok.1 hu
  exact .of_result 0 hi hu

/-- The one-source instructions of the ZN list with checks between. -/
theorem Effect.of_readB_result {i : Instr} {b : BReg} {g : Int → Result Unit} {f : Int → Int}
    (hi : znDestination i = some a)
    (h : finish s (s.readB b >>= fun x => g x >>= fun _ => s.result a (f x)) = .next t) :
    Effect i s t := by
  refine .of_finish 0 h fun u hu => ?_
  obtain ⟨_, -, hu⟩ := Result.bind_eq_ok.1 hu
  obtain ⟨_, -, hu⟩ := Result.bind_eq_ok.1 hu
  exact .of_result 0 hi hu

/-- All that a byte store can do. -/
theorem Effect.of_storeInteger {i : Instr} {form : Nat → Nat → List Byte}
    (hf : ∀ L x, (form L x).length = L) (hi : storesAt i = some addr.toNat)
    (h : storeInteger form a addr len s = .next t) : Effect i s t := by
  refine .of_finish 0 h fun u hu => ?_
  obtain ⟨x, -, hu⟩ := Result.bind_eq_ok.1 hu
  obtain ⟨_, -, hu⟩ := Result.bind_eq_ok.1 hu
  obtain ⟨_, -, hu⟩ := Result.bind_eq_ok.1 hu
  obtain ⟨_, -, hu⟩ := Result.bind_eq_ok.1 hu
  exact .of_memWrite hi (hf _ _) hu

/-- All that a string store can do. -/
theorem Effect.of_storeString {i : Instr} {r : Radix} (hi : storesAt i = some addr.toNat)
    (h : storeString r a addr len s = .next t) : Effect i s t := by
  refine .of_finish 0 h fun u hu => ?_
  obtain ⟨x, -, hu⟩ := Result.bind_eq_ok.1 hu
  obtain ⟨_, -, hu⟩ := Result.bind_eq_ok.1 hu
  obtain ⟨_, -, hu⟩ := Result.bind_eq_ok.1 hu
  exact .of_memWrite hi rfl hu

/-- All that SIGN's operand checks can do (45_ecdsa.md R122). -/
theorem signOperands_eq_ok {b c : BReg} {dz : Int × Int} :
    signOperands a b c s = .ok dz ↔
      groupFits a 3 = true ∧ Valid2 s b c ∧ inScalarRange s.build.curve s.b[b] = true ∧
        dz = (s.b[b], s.b[c] % s.build.curve.n) := by
  unfold signOperands
  by_cases hv : Valid2 s b c
  · cases hg : groupFits a 3 <;> cases hr : inScalarRange s.build.curve s.b[b] <;>
      simp_all [readB2_of_valid2 hv, eq_comm (a := dz)]
  · cases hg : groupFits a 3 <;> simp_all [readB2_of_not_valid2 hv]

/-- All that SIGN's three register writes can do. -/
theorem State.writeSignature_eq_ok {r sg v : Int} :
    s.writeSignature a r sg v = .ok t ↔
      s.fits r = true ∧ s.fits sg = true ∧ s.fits v = true ∧
        t = (((s.setB (groupReg a 0) r).setB (groupReg a 1) sg).setB (groupReg a 2) v).nextPc := by
  unfold State.writeSignature
  simp only [Result.bind_eq_ok, State.writeB_eq_ok]
  constructor
  · rintro ⟨_, ⟨hr, rfl⟩, _, ⟨hs, rfl⟩, _, ⟨hv, rfl⟩, h⟩
    exact ⟨hr, hs, hv, by simpa using h.symm⟩
  · rintro ⟨hr, hs, hv, rfl⟩
    exact ⟨_, ⟨hr, rfl⟩, _, ⟨hs, rfl⟩, _, ⟨hv, rfl⟩, rfl⟩

/-- All that one nonce attempt can do. -/
theorem signWith_eq_next {held : SignOperands} {d z : Int} {k : Nat} (h : signWith held d z k s = .next t) :
    (∃ e, t = s.raise e) ∨ t = s.awaitNonce held ∨
      ∃ r sg v, s.fits r = true ∧ s.fits sg = true ∧ s.fits v = true ∧
        t = (((s.setB (groupReg held.a 0) r).setB (groupReg held.a 1) sg).setB (groupReg held.a 2) v).nextPc := by
  unfold signWith at h
  split at h
  · split at h
    · exact .inr (.inl (by simpa using h.symm))
    · obtain h | ⟨e, -, rfl⟩ := finish_eq_next.1 h
      · obtain ⟨hr, hs, hv, rfl⟩ := State.writeSignature_eq_ok.1 h
        exact .inr (.inr ⟨_, _, _, hr, hs, hv, rfl⟩)
      · exact .inl ⟨e, rfl⟩
  · exact .inl ⟨.nonceRange, by simpa using h.symm⟩

/-- All that SIGN can do. -/
theorem Effect.of_execSign {b c : BReg} {lows : Bool} (h : execSign a b c lows s = .next t) :
    Effect (.sign a b c lows) s t := by
  unfold execSign at h
  split at h
  · obtain rfl := Host.Outcome.next.inj h
    exact .raise _
  · rename_i hd
    obtain ⟨hg, -⟩ := signOperands_eq_ok.1 hd
    split at h
    · rename_i hn
      obtain ⟨e, rfl⟩ | rfl | ⟨r, sg, v, hr, hs, hv, rfl⟩ := signWith_eq_next h
      · exact .signError a b c lows rfl hn hg e
      · exact .retries a b c lows rfl hn hg
      · exact .signed a b c lows r sg v rfl hn hg hr hs hv
    · rename_i hn
      obtain rfl := Host.Outcome.next.inj h
      exact .waits a b c lows rfl (by simpa using hn) hg

/-- Every instruction's next state is one of the effects. -/
theorem exec_effect {i : Instr} (h : exec i s = .next t) : Effect i s t := by
  cases i with
  | nop => exact Host.Outcome.next.inj h ▸ .passes (.inl rfl)
  | halt => exact Host.Outcome.next.inj h ▸ .halts rfl
  | jmp target => exact Host.Outcome.next.inj h ▸ .jumps target (.inl rfl)
  | br cond target =>
    obtain rfl := Host.Outcome.next.inj h
    cases hc : s.flags.holds cond with
    | true => exact .jumps target (.inr ⟨cond, rfl, hc⟩)
    | false => exact .passes (.inr ⟨cond, target, rfl, hc⟩)
  | mov a b => exact .of_readB_result (g := fun _ => .ok ()) rfl h
  | ldi a imm => exact .of_finish 0 h fun u => .of_result 0 rfl
  | ldc a sel => exact .of_finish 0 h fun u => .of_result 0 rfl
  | add a b c => exact .of_readB2_result (g := fun _ => .ok ()) (f := fun xy => xy.1 + xy.2) rfl h
  | sub a b c => exact .of_readB2_result (g := fun _ => .ok ()) (f := fun xy => xy.1 - xy.2) rfl h
  | mul a b c => exact .of_readB2_result (g := fun _ => .ok ()) (f := fun xy => xy.1 * xy.2) rfl h
  | div a b c => exact .of_readB2_result (f := fun xy => Int.tdiv xy.1 xy.2) rfl h
  | rem a b c => exact .of_readB2_result (f := fun xy => Int.tmod xy.1 xy.2) rfl h
  | cmp b c =>
    refine .of_finish 0 h fun u hu => ?_
    obtain ⟨xy, -, hu⟩ := Result.bind_eq_ok.1 hu
    exact Except.ok.inj hu ▸ .order b c xy.1 xy.2 rfl
  | shl a b imm => exact .of_readB_result (f := fun x => x * 2 ^ zextImm imm) rfl h
  | shr a b imm => exact .of_readB_result (f := fun x => x / 2 ^ zextImm imm) rfl h
  | bitlen a b => exact .of_readB_result (f := fun x => (bitlen x.toNat : Nat)) rfl h
  | bit b c =>
    refine .of_finish 0 h fun u hu => ?_
    obtain ⟨xy, -, hu⟩ := Result.bind_eq_ok.1 hu
    obtain ⟨_, -, hu⟩ := Result.bind_eq_ok.1 hu
    obtain ⟨_, -, hu⟩ := Result.bind_eq_ok.1 hu
    exact Except.ok.inj hu ▸ .test _ rfl
  | biti b imm =>
    refine .of_finish 0 h fun u hu => ?_
    obtain ⟨xy, -, hu⟩ := Result.bind_eq_ok.1 hu
    obtain ⟨_, -, hu⟩ := Result.bind_eq_ok.1 hu
    exact Except.ok.inj hu ▸ .test _ rfl
  | mod a b c => exact .of_readB2_result (f := fun xy => xy.1 % xy.2) rfl h
  | modexp a b c d =>
    refine .of_finish 0 h fun u hu => ?_
    obtain ⟨xy, -, hu⟩ := Result.bind_eq_ok.1 hu
    obtain ⟨_, -, hu⟩ := Result.bind_eq_ok.1 hu
    obtain ⟨_, -, hu⟩ := Result.bind_eq_ok.1 hu
    obtain ⟨_, -, hu⟩ := Result.bind_eq_ok.1 hu
    exact .of_result 0 rfl hu
  | modinv a b c =>
    refine .of_finish 0 h fun u hu => ?_
    obtain ⟨xy, -, hu⟩ := Result.bind_eq_ok.1 hu
    obtain ⟨_, -, hu⟩ := Result.bind_eq_ok.1 hu
    obtain ⟨_, -, hu⟩ := Result.bind_eq_ok.1 hu
    exact .of_result 0 rfl hu
  | ldbe a addr len =>
    simp only [exec, execLdbe] at h
    exact .of_memReadThen h fun _ u => .of_result _ rfl
  | ldle a addr len =>
    simp only [exec, execLdle] at h
    exact .of_memReadThen h fun _ u => .of_result _ rfl
  | stbe a addr len => exact .of_storeInteger beBytes_length rfl h
  | stle a addr len => exact .of_storeInteger leBytes_length rfl h
  | ldhex a addr len => exact .of_loadString rfl h
  | lddec a addr len => exact .of_loadString rfl h
  | sthex a addr len => exact .of_storeString rfl h
  | stdec a addr len => exact .of_storeString rfl h
  | pinf a => exact Host.Outcome.next.inj h ▸ .point a _ rfl
  | pgen a => exact Host.Outcome.next.inj h ▸ .point a _ rfl
  | pmk a b c =>
    refine .of_finish 0 h fun u hu => ?_
    obtain ⟨xy, -, hu⟩ := Result.bind_eq_ok.1 hu
    obtain ⟨_, -, hu⟩ := Result.bind_eq_ok.1 hu
    exact Except.ok.inj hu ▸ .point a _ rfl
  | px a b =>
    refine .of_finish 0 h fun u hu => ?_
    obtain ⟨_, -, hu⟩ := Result.bind_eq_ok.1 hu
    obtain ⟨_, -, hu⟩ := Result.bind_eq_ok.1 hu
    exact .of_result 0 rfl hu
  | py a b =>
    refine .of_finish 0 h fun u hu => ?_
    obtain ⟨_, -, hu⟩ := Result.bind_eq_ok.1 hu
    obtain ⟨_, -, hu⟩ := Result.bind_eq_ok.1 hu
    exact .of_result 0 rfl hu
  | pisinf b =>
    refine .of_finish 0 h fun u hu => ?_
    obtain ⟨_, -, hu⟩ := Result.bind_eq_ok.1 hu
    exact Except.ok.inj hu ▸ .test _ rfl
  | padd a b c =>
    refine .of_finish 0 h fun u hu => ?_
    obtain ⟨_, -, hu⟩ := Result.bind_eq_ok.1 hu
    obtain ⟨_, -, hu⟩ := Result.bind_eq_ok.1 hu
    exact Except.ok.inj hu ▸ .point a _ rfl
  | pdbl a b =>
    refine .of_finish 0 h fun u hu => ?_
    obtain ⟨_, -, hu⟩ := Result.bind_eq_ok.1 hu
    exact Except.ok.inj hu ▸ .point a _ rfl
  | pmul a b c =>
    refine .of_finish 0 h fun u hu => ?_
    obtain ⟨_, -, hu⟩ := Result.bind_eq_ok.1 hu
    obtain ⟨_, -, hu⟩ := Result.bind_eq_ok.1 hu
    obtain ⟨_, -, hu⟩ := Result.bind_eq_ok.1 hu
    exact Except.ok.inj hu ▸ .point a _ rfl
  | digz a addr len =>
    simp only [exec, execDigz] at h
    exact .of_memReadThen h fun _ u => .of_result _ rfl
  | sign a b c lows => exact .of_execSign h
  | verify a b c =>
    refine .of_finish 0 h fun u hu => ?_
    obtain ⟨_, -, hu⟩ := Result.bind_eq_ok.1 hu
    obtain ⟨_, -, hu⟩ := Result.bind_eq_ok.1 hu
    obtain ⟨_, -, hu⟩ := Result.bind_eq_ok.1 hu
    obtain ⟨_, -, hu⟩ := Result.bind_eq_ok.1 hu
    obtain ⟨_, -, hu⟩ := Result.bind_eq_ok.1 hu
    exact Except.ok.inj hu ▸ .test _ rfl
  | recover a b c =>
    refine .of_finish 0 h fun u hu => ?_
    obtain ⟨_, -, hu⟩ := Result.bind_eq_ok.1 hu
    obtain ⟨_, -, hu⟩ := Result.bind_eq_ok.1 hu
    obtain ⟨_, -, hu⟩ := Result.bind_eq_ok.1 hu
    obtain ⟨_, -, hu⟩ := Result.bind_eq_ok.1 hu
    obtain ⟨_, -, hu⟩ := Result.bind_eq_ok.1 hu
    obtain ⟨_, -, hu⟩ := Result.bind_eq_ok.1 hu
    obtain ⟨_, -, hu⟩ := Result.bind_eq_ok.1 hu
    exact Except.ok.inj hu ▸ .point a _ rfl

end Sys2Proof.Machine
end

