-- ==== Sys2Proof/Laws/PerInstr.lean ====
section
/-! SUPPORT. For each instruction: the row of 30_encoding.md R74 that the decoder finds for its encoded word,
and that the word matches the row's mask. -/

namespace Sys2Proof.Laws.EncodedOpcode

open Sys2Proof

/-- The decoder finds a row by the opcode byte of i's word, and the word matches it (R75). -/
def Statement (i : Instr) : Prop :=
  ∃ r, opcodeRow? (opField (encode i)) = some r ∧ encode i &&& r.mask = r.pattern

theorem nop : Statement (.nop) := by
  refine ⟨_, by rw [encode, opField_rFormat]; rfl, ?_⟩
  rw [show (0xFFFFFFFF : Word) = rFormat 0xFF 0xF 0xF 0xF 0xF 0xFF by decide, encode, rFormat_and]
  simp
  rfl

theorem halt : Statement (.halt) := by
  refine ⟨_, by rw [encode, opField_rFormat]; rfl, ?_⟩
  rw [show (0xFFFFFFFF : Word) = rFormat 0xFF 0xF 0xF 0xF 0xF 0xFF by decide, encode, rFormat_and]
  simp
  rfl

theorem jmp (target : BitVec 16) : Statement (.jmp target) := by
  refine ⟨_, by rw [encode, bFormat_eq_iFormat, opField_iFormat]; rfl, ?_⟩
  rw [show (0xFFFF0000 : Word) = iFormat 0xFF 0xF 0xF 0x0000 by decide, encode, bFormat_eq_iFormat, iFormat_and]
  simp
  rfl

theorem br (cond : Cond) (target : BitVec 16) : Statement (.br cond target) := by
  refine ⟨_, by rw [encode, bFormat_eq_iFormat, opField_iFormat]; rfl, ?_⟩
  rw [show (0xFF0F0000 : Word) = iFormat 0xFF 0x0 0xF 0x0000 by decide, encode, bFormat_eq_iFormat, iFormat_and]
  simp
  rfl

theorem mov (a b : BReg) : Statement (.mov a b) := by
  refine ⟨_, by rw [encode, opField_rFormat]; rfl, ?_⟩
  rw [show (0xFF00FFFF : Word) = rFormat 0xFF 0x0 0x0 0xF 0xF 0xFF by decide, encode, rFormat_and]
  simp
  rfl

theorem ldi (a : BReg) (imm : BitVec 16) : Statement (.ldi a imm) := by
  refine ⟨_, by rw [encode, opField_iFormat]; rfl, ?_⟩
  rw [show (0xFF0F0000 : Word) = iFormat 0xFF 0x0 0xF 0x0000 by decide, encode, iFormat_and]
  simp
  rfl

theorem ldc (a : BReg) (sel : CurveConst) : Statement (.ldc a sel) := by
  refine ⟨_, by rw [encode, opField_iFormat]; rfl, ?_⟩
  rw [show (0xFF0F0000 : Word) = iFormat 0xFF 0x0 0xF 0x0000 by decide, encode, iFormat_and]
  simp
  rfl

theorem add (a b c : BReg) : Statement (.add a b c) := by
  refine ⟨_, by rw [encode, opField_rFormat]; rfl, ?_⟩
  rw [show (0xFF000FFF : Word) = rFormat 0xFF 0x0 0x0 0x0 0xF 0xFF by decide, encode, rFormat_and]
  simp
  rfl

theorem sub (a b c : BReg) : Statement (.sub a b c) := by
  refine ⟨_, by rw [encode, opField_rFormat]; rfl, ?_⟩
  rw [show (0xFF000FFF : Word) = rFormat 0xFF 0x0 0x0 0x0 0xF 0xFF by decide, encode, rFormat_and]
  simp
  rfl

theorem mul (a b c : BReg) : Statement (.mul a b c) := by
  refine ⟨_, by rw [encode, opField_rFormat]; rfl, ?_⟩
  rw [show (0xFF000FFF : Word) = rFormat 0xFF 0x0 0x0 0x0 0xF 0xFF by decide, encode, rFormat_and]
  simp
  rfl

theorem div (a b c : BReg) : Statement (.div a b c) := by
  refine ⟨_, by rw [encode, opField_rFormat]; rfl, ?_⟩
  rw [show (0xFF000FFF : Word) = rFormat 0xFF 0x0 0x0 0x0 0xF 0xFF by decide, encode, rFormat_and]
  simp
  rfl

theorem rem (a b c : BReg) : Statement (.rem a b c) := by
  refine ⟨_, by rw [encode, opField_rFormat]; rfl, ?_⟩
  rw [show (0xFF000FFF : Word) = rFormat 0xFF 0x0 0x0 0x0 0xF 0xFF by decide, encode, rFormat_and]
  simp
  rfl

theorem cmp (b c : BReg) : Statement (.cmp b c) := by
  refine ⟨_, by rw [encode, opField_rFormat]; rfl, ?_⟩
  rw [show (0xFFF00FFF : Word) = rFormat 0xFF 0xF 0x0 0x0 0xF 0xFF by decide, encode, rFormat_and]
  simp
  rfl

theorem shl (a b : BReg) (imm : BitVec 16) : Statement (.shl a b imm) := by
  refine ⟨_, by rw [encode, opField_iFormat]; rfl, ?_⟩
  rw [show (0xFF000000 : Word) = iFormat 0xFF 0x0 0x0 0x0000 by decide, encode, iFormat_and]
  simp
  rfl

theorem shr (a b : BReg) (imm : BitVec 16) : Statement (.shr a b imm) := by
  refine ⟨_, by rw [encode, opField_iFormat]; rfl, ?_⟩
  rw [show (0xFF000000 : Word) = iFormat 0xFF 0x0 0x0 0x0000 by decide, encode, iFormat_and]
  simp
  rfl

theorem bitlen (a b : BReg) : Statement (.bitlen a b) := by
  refine ⟨_, by rw [encode, opField_rFormat]; rfl, ?_⟩
  rw [show (0xFF00FFFF : Word) = rFormat 0xFF 0x0 0x0 0xF 0xF 0xFF by decide, encode, rFormat_and]
  simp
  rfl

theorem bit (b c : BReg) : Statement (.bit b c) := by
  refine ⟨_, by rw [encode, opField_rFormat]; rfl, ?_⟩
  rw [show (0xFFF00FFF : Word) = rFormat 0xFF 0xF 0x0 0x0 0xF 0xFF by decide, encode, rFormat_and]
  simp
  rfl

theorem biti (b : BReg) (imm : BitVec 16) : Statement (.biti b imm) := by
  refine ⟨_, by rw [encode, opField_iFormat]; rfl, ?_⟩
  rw [show (0xFFF00000 : Word) = iFormat 0xFF 0xF 0x0 0x0000 by decide, encode, iFormat_and]
  simp
  rfl

theorem mod (a b c : BReg) : Statement (.mod a b c) := by
  refine ⟨_, by rw [encode, opField_rFormat]; rfl, ?_⟩
  rw [show (0xFF000FFF : Word) = rFormat 0xFF 0x0 0x0 0x0 0xF 0xFF by decide, encode, rFormat_and]
  simp
  rfl

theorem modexp (a b c d : BReg) : Statement (.modexp a b c d) := by
  refine ⟨_, by rw [encode, opField_rFormat]; rfl, ?_⟩
  rw [show (0xFF0000FF : Word) = rFormat 0xFF 0x0 0x0 0x0 0x0 0xFF by decide, encode, rFormat_and]
  simp
  rfl

theorem modinv (a b c : BReg) : Statement (.modinv a b c) := by
  refine ⟨_, by rw [encode, opField_rFormat]; rfl, ?_⟩
  rw [show (0xFF000FFF : Word) = rFormat 0xFF 0x0 0x0 0x0 0xF 0xFF by decide, encode, rFormat_and]
  simp
  rfl

theorem ldbe (a : BReg) (addr : BitVec 12) (len : BitVec 8) : Statement (.ldbe a addr len) := by
  refine ⟨_, by rw [encode, opField_mFormat]; rfl, ?_⟩
  rw [show (0xFF000000 : Word) = mFormat 0xFF 0x0 0x000 0x00 by decide, encode, mFormat_and]
  simp
  rfl

theorem ldle (a : BReg) (addr : BitVec 12) (len : BitVec 8) : Statement (.ldle a addr len) := by
  refine ⟨_, by rw [encode, opField_mFormat]; rfl, ?_⟩
  rw [show (0xFF000000 : Word) = mFormat 0xFF 0x0 0x000 0x00 by decide, encode, mFormat_and]
  simp
  rfl

theorem stbe (a : BReg) (addr : BitVec 12) (len : BitVec 8) : Statement (.stbe a addr len) := by
  refine ⟨_, by rw [encode, opField_mFormat]; rfl, ?_⟩
  rw [show (0xFF000000 : Word) = mFormat 0xFF 0x0 0x000 0x00 by decide, encode, mFormat_and]
  simp
  rfl

theorem stle (a : BReg) (addr : BitVec 12) (len : BitVec 8) : Statement (.stle a addr len) := by
  refine ⟨_, by rw [encode, opField_mFormat]; rfl, ?_⟩
  rw [show (0xFF000000 : Word) = mFormat 0xFF 0x0 0x000 0x00 by decide, encode, mFormat_and]
  simp
  rfl

theorem ldhex (a : BReg) (addr : BitVec 12) (len : BitVec 8) : Statement (.ldhex a addr len) := by
  refine ⟨_, by rw [encode, opField_mFormat]; rfl, ?_⟩
  rw [show (0xFF000000 : Word) = mFormat 0xFF 0x0 0x000 0x00 by decide, encode, mFormat_and]
  simp
  rfl

theorem sthex (a : BReg) (addr : BitVec 12) (len : BitVec 8) : Statement (.sthex a addr len) := by
  refine ⟨_, by rw [encode, opField_mFormat]; rfl, ?_⟩
  rw [show (0xFF000000 : Word) = mFormat 0xFF 0x0 0x000 0x00 by decide, encode, mFormat_and]
  simp
  rfl

theorem lddec (a : BReg) (addr : BitVec 12) (len : BitVec 8) : Statement (.lddec a addr len) := by
  refine ⟨_, by rw [encode, opField_mFormat]; rfl, ?_⟩
  rw [show (0xFF000000 : Word) = mFormat 0xFF 0x0 0x000 0x00 by decide, encode, mFormat_and]
  simp
  rfl

theorem stdec (a : BReg) (addr : BitVec 12) (len : BitVec 8) : Statement (.stdec a addr len) := by
  refine ⟨_, by rw [encode, opField_mFormat]; rfl, ?_⟩
  rw [show (0xFF000000 : Word) = mFormat 0xFF 0x0 0x000 0x00 by decide, encode, mFormat_and]
  simp
  rfl

theorem pinf (a : PReg) : Statement (.pinf a) := by
  refine ⟨_, by rw [encode, opField_rFormat]; rfl, ?_⟩
  rw [show (0xFF8FFFFF : Word) = rFormat 0xFF 0x8 0xF 0xF 0xF 0xFF by decide, encode, rFormat_and]
  simp [pField_and_seven]
  rfl

theorem pgen (a : PReg) : Statement (.pgen a) := by
  refine ⟨_, by rw [encode, opField_rFormat]; rfl, ?_⟩
  rw [show (0xFF8FFFFF : Word) = rFormat 0xFF 0x8 0xF 0xF 0xF 0xFF by decide, encode, rFormat_and]
  simp [pField_and_seven]
  rfl

theorem pmk (a : PReg) (b c : BReg) : Statement (.pmk a b c) := by
  refine ⟨_, by rw [encode, opField_rFormat]; rfl, ?_⟩
  rw [show (0xFF800FFF : Word) = rFormat 0xFF 0x8 0x0 0x0 0xF 0xFF by decide, encode, rFormat_and]
  simp [pField_and_seven]
  rfl

theorem px (a : BReg) (b : PReg) : Statement (.px a b) := by
  refine ⟨_, by rw [encode, opField_rFormat]; rfl, ?_⟩
  rw [show (0xFF08FFFF : Word) = rFormat 0xFF 0x0 0x8 0xF 0xF 0xFF by decide, encode, rFormat_and]
  simp [pField_and_seven]
  rfl

theorem py (a : BReg) (b : PReg) : Statement (.py a b) := by
  refine ⟨_, by rw [encode, opField_rFormat]; rfl, ?_⟩
  rw [show (0xFF08FFFF : Word) = rFormat 0xFF 0x0 0x8 0xF 0xF 0xFF by decide, encode, rFormat_and]
  simp [pField_and_seven]
  rfl

theorem pisinf (b : PReg) : Statement (.pisinf b) := by
  refine ⟨_, by rw [encode, opField_rFormat]; rfl, ?_⟩
  rw [show (0xFFF8FFFF : Word) = rFormat 0xFF 0xF 0x8 0xF 0xF 0xFF by decide, encode, rFormat_and]
  simp [pField_and_seven]
  rfl

theorem padd (a b c : PReg) : Statement (.padd a b c) := by
  refine ⟨_, by rw [encode, opField_rFormat]; rfl, ?_⟩
  rw [show (0xFF888FFF : Word) = rFormat 0xFF 0x8 0x8 0x8 0xF 0xFF by decide, encode, rFormat_and]
  simp [pField_and_seven]
  rfl

theorem pdbl (a b : PReg) : Statement (.pdbl a b) := by
  refine ⟨_, by rw [encode, opField_rFormat]; rfl, ?_⟩
  rw [show (0xFF88FFFF : Word) = rFormat 0xFF 0x8 0x8 0xF 0xF 0xFF by decide, encode, rFormat_and]
  simp [pField_and_seven]
  rfl

theorem pmul (a : PReg) (b : BReg) (c : PReg) : Statement (.pmul a b c) := by
  refine ⟨_, by rw [encode, opField_rFormat]; rfl, ?_⟩
  rw [show (0xFF808FFF : Word) = rFormat 0xFF 0x8 0x0 0x8 0xF 0xFF by decide, encode, rFormat_and]
  simp [pField_and_seven]
  rfl

theorem digz (a : BReg) (addr : BitVec 12) (len : BitVec 8) : Statement (.digz a addr len) := by
  refine ⟨_, by rw [encode, opField_mFormat]; rfl, ?_⟩
  rw [show (0xFF000000 : Word) = mFormat 0xFF 0x0 0x000 0x00 by decide, encode, mFormat_and]
  simp
  rfl

theorem sign (a b c : BReg) (lows : Bool) : Statement (.sign a b c lows) := by
  refine ⟨_, by rw [encode, opField_rFormat]; rfl, ?_⟩
  rw [show (0xFF000FFE : Word) = rFormat 0xFF 0x0 0x0 0x0 0xF 0xFE by decide, encode, rFormat_and]
  cases lows <;> simp <;> rfl

theorem verify (a : PReg) (b c : BReg) : Statement (.verify a b c) := by
  refine ⟨_, by rw [encode, opField_rFormat]; rfl, ?_⟩
  rw [show (0xFF800FFF : Word) = rFormat 0xFF 0x8 0x0 0x0 0xF 0xFF by decide, encode, rFormat_and]
  simp [pField_and_seven]
  rfl

theorem recover (a : PReg) (b c : BReg) : Statement (.recover a b c) := by
  refine ⟨_, by rw [encode, opField_rFormat]; rfl, ?_⟩
  rw [show (0xFF800FFF : Word) = rFormat 0xFF 0x8 0x0 0x0 0xF 0xFF by decide, encode, rFormat_and]
  simp [pField_and_seven]
  rfl

end Sys2Proof.Laws.EncodedOpcode
end

