-- ==== Sys2Proof/Laws/Secp256k1.lean ====
section
/-! SUPPORT. The default build meets the constraints of 00_scope.md R9 to R13: Pratt certificates for
secp256k1's two primes, and its base point's order by evaluation. -/

namespace Sys2Proof.Machine

/-- Lucas's primality test with the prime factors of p − 1 given. -/
theorem prime_of_factors (p g : Nat) (fs : List Nat) (hp : 1 < p) (hprod : fs.prod = p - 1)
    (hfs : ∀ q ∈ fs, Nat.Prime q) (hone : powMod g (p - 1) p = 1)
    (hne : ∀ q ∈ fs, powMod g ((p - 1) / q) p ≠ 1) : Nat.Prime p := by
  have key : ∀ e, (g : ZMod p) ^ e = 1 ↔ powMod g e p = 1 := fun e => by
    rw [powMod_eq, ← Nat.mod_eq_of_lt hp, ← Nat.cast_pow, ← Nat.cast_one,
      ZMod.natCast_eq_natCast_iff', Nat.mod_eq_of_lt hp]
  refine lucas_primality p (g : ZMod p) ((key _).2 hone) fun q hq hdvd => ?_
  rw [← hprod] at hdvd
  obtain ⟨r, hr, hqr⟩ := (Prime.dvd_prod_iff hq.prime).1 hdvd
  rw [(Nat.prime_dvd_prime_iff_eq hq (hfs r hr)).1 hqr]
  exact fun h => hne r hr ((key _).1 h)

set_option maxRecDepth 10000

theorem prime_1206781 : Nat.Prime 1206781 :=
  prime_of_factors 1206781 10
    [2, 2, 3, 5, 20113]
    (by norm_num) (by norm_num)
    (by
      simp only [List.forall_mem_cons, List.not_mem_nil, false_implies, implies_true, and_true]
      refine ⟨?_, ?_, ?_, ?_, ?_⟩ <;> norm_num)
    (by decide +kernel) (by decide +kernel)

theorem prime_7240687 : Nat.Prime 7240687 :=
  prime_of_factors 7240687 3
    [2, 3, 1206781]
    (by norm_num) (by norm_num)
    (by
      simp only [List.forall_mem_cons, List.not_mem_nil, false_implies, implies_true, and_true]
      refine ⟨?_, ?_, prime_1206781⟩ <;> norm_num)
    (by decide +kernel) (by decide +kernel)

theorem prime_107590001 : Nat.Prime 107590001 :=
  prime_of_factors 107590001 3
    [2, 2, 2, 2, 5, 5, 5, 5, 7, 29, 53]
    (by norm_num) (by norm_num)
    (by
      simp only [List.forall_mem_cons, List.not_mem_nil, false_implies, implies_true, and_true]
      refine ⟨?_, ?_, ?_, ?_, ?_, ?_, ?_, ?_, ?_, ?_, ?_⟩ <;> norm_num)
    (by decide +kernel) (by decide +kernel)

theorem prime_255515944373312847190720520512484175977 : Nat.Prime 255515944373312847190720520512484175977 :=
  prime_of_factors 255515944373312847190720520512484175977 3
    [2, 2, 2, 7, 7, 11, 1627, 2657, 4423, 41201, 96557, 7240687, 107590001]
    (by norm_num) (by norm_num)
    (by
      simp only [List.forall_mem_cons, List.not_mem_nil, false_implies, implies_true, and_true]
      refine ⟨?_, ?_, ?_, ?_, ?_, ?_, ?_, ?_, ?_, ?_, ?_, prime_7240687, prime_107590001⟩ <;> norm_num)
    (by decide +kernel) (by decide +kernel)

theorem prime_13331831 : Nat.Prime 13331831 :=
  prime_of_factors 13331831 13
    [2, 5, 971, 1373]
    (by norm_num) (by norm_num)
    (by
      simp only [List.forall_mem_cons, List.not_mem_nil, false_implies, implies_true, and_true]
      refine ⟨?_, ?_, ?_, ?_⟩ <;> norm_num)
    (by decide +kernel) (by decide +kernel)

theorem prime_173378833005251801 : Nat.Prime 173378833005251801 :=
  prime_of_factors 173378833005251801 6
    [2, 2, 2, 5, 5, 2621, 24809, 13331831]
    (by norm_num) (by norm_num)
    (by
      simp only [List.forall_mem_cons, List.not_mem_nil, false_implies, implies_true, and_true]
      refine ⟨?_, ?_, ?_, ?_, ?_, ?_, ?_, prime_13331831⟩ <;> norm_num)
    (by decide +kernel) (by decide +kernel)

theorem prime_22149492674086928081353 : Nat.Prime 22149492674086928081353 :=
  prime_of_factors 22149492674086928081353 5
    [2, 2, 2, 3, 5323, 173378833005251801]
    (by norm_num) (by norm_num)
    (by
      simp only [List.forall_mem_cons, List.not_mem_nil, false_implies, implies_true, and_true]
      refine ⟨?_, ?_, ?_, ?_, ?_, prime_173378833005251801⟩ <;> norm_num)
    (by decide +kernel) (by decide +kernel)

theorem prime_132896956044521568488119 : Nat.Prime 132896956044521568488119 :=
  prime_of_factors 132896956044521568488119 6
    [2, 3, 22149492674086928081353]
    (by norm_num) (by norm_num)
    (by
      simp only [List.forall_mem_cons, List.not_mem_nil, false_implies, implies_true, and_true]
      refine ⟨?_, ?_, prime_22149492674086928081353⟩ <;> norm_num)
    (by decide +kernel) (by decide +kernel)

theorem prime_205115282021455665897114700593932402728804164701536103180137503955397371 : Nat.Prime 205115282021455665897114700593932402728804164701536103180137503955397371 :=
  prime_of_factors 205115282021455665897114700593932402728804164701536103180137503955397371 10
    [2, 3, 5, 29, 29, 31, 7723, 132896956044521568488119, 255515944373312847190720520512484175977]
    (by norm_num) (by norm_num)
    (by
      simp only [List.forall_mem_cons, List.not_mem_nil, false_implies, implies_true, and_true]
      refine ⟨?_, ?_, ?_, ?_, ?_, ?_, ?_, prime_132896956044521568488119, prime_255515944373312847190720520512484175977⟩ <;> norm_num)
    (by decide +kernel) (by decide +kernel)

theorem secp256k1_p_prime : Nat.Prime 115792089237316195423570985008687907853269984665640564039457584007908834671663 :=
  prime_of_factors 115792089237316195423570985008687907853269984665640564039457584007908834671663 3
    [2, 3, 7, 13441, 205115282021455665897114700593932402728804164701536103180137503955397371]
    (by norm_num) (by norm_num)
    (by
      simp only [List.forall_mem_cons, List.not_mem_nil, false_implies, implies_true, and_true]
      refine ⟨?_, ?_, ?_, ?_, prime_205115282021455665897114700593932402728804164701536103180137503955397371⟩ <;> norm_num)
    (by decide +kernel) (by decide +kernel)

theorem prime_44706919 : Nat.Prime 44706919 :=
  prime_of_factors 44706919 6
    [2, 3, 797, 9349]
    (by norm_num) (by norm_num)
    (by
      simp only [List.forall_mem_cons, List.not_mem_nil, false_implies, implies_true, and_true]
      refine ⟨?_, ?_, ?_, ?_⟩ <;> norm_num)
    (by decide +kernel) (by decide +kernel)

theorem prime_174723607534414371449 : Nat.Prime 174723607534414371449 :=
  prime_of_factors 174723607534414371449 3
    [2, 2, 2, 17, 59, 4051, 120233, 44706919]
    (by norm_num) (by norm_num)
    (by
      simp only [List.forall_mem_cons, List.not_mem_nil, false_implies, implies_true, and_true]
      refine ⟨?_, ?_, ?_, ?_, ?_, ?_, ?_, prime_44706919⟩ <;> norm_num)
    (by decide +kernel) (by decide +kernel)

theorem prime_4681609 : Nat.Prime 4681609 :=
  prime_of_factors 4681609 23
    [2, 2, 2, 3, 97, 2011]
    (by norm_num) (by norm_num)
    (by
      simp only [List.forall_mem_cons, List.not_mem_nil, false_implies, implies_true, and_true]
      refine ⟨?_, ?_, ?_, ?_, ?_, ?_⟩ <;> norm_num)
    (by decide +kernel) (by decide +kernel)

theorem prime_107361793816595537 : Nat.Prime 107361793816595537 :=
  prime_of_factors 107361793816595537 3
    [2, 2, 2, 2, 16699, 85831, 4681609]
    (by norm_num) (by norm_num)
    (by
      simp only [List.forall_mem_cons, List.not_mem_nil, false_implies, implies_true, and_true]
      refine ⟨?_, ?_, ?_, ?_, ?_, ?_, prime_4681609⟩ <;> norm_num)
    (by decide +kernel) (by decide +kernel)

theorem prime_1627771 : Nat.Prime 1627771 :=
  prime_of_factors 1627771 3
    [2, 3, 5, 29, 1871]
    (by norm_num) (by norm_num)
    (by
      simp only [List.forall_mem_cons, List.not_mem_nil, false_implies, implies_true, and_true]
      refine ⟨?_, ?_, ?_, ?_, ?_⟩ <;> norm_num)
    (by decide +kernel) (by decide +kernel)

theorem prime_297159362677 : Nat.Prime 297159362677 :=
  prime_of_factors 297159362677 2
    [2, 2, 3, 3, 11, 461, 1627771]
    (by norm_num) (by norm_num)
    (by
      simp only [List.forall_mem_cons, List.not_mem_nil, false_implies, implies_true, and_true]
      refine ⟨?_, ?_, ?_, ?_, ?_, ?_, prime_1627771⟩ <;> norm_num)
    (by decide +kernel) (by decide +kernel)

theorem prime_545358713 : Nat.Prime 545358713 :=
  prime_of_factors 545358713 5
    [2, 2, 2, 41, 59, 28181]
    (by norm_num) (by norm_num)
    (by
      simp only [List.forall_mem_cons, List.not_mem_nil, false_implies, implies_true, and_true]
      refine ⟨?_, ?_, ?_, ?_, ?_, ?_⟩ <;> norm_num)
    (by decide +kernel) (by decide +kernel)

theorem prime_29047611873442575647497758179 : Nat.Prime 29047611873442575647497758179 :=
  prime_of_factors 29047611873442575647497758179 2
    [2, 293, 305873, 545358713, 297159362677]
    (by norm_num) (by norm_num)
    (by
      simp only [List.forall_mem_cons, List.not_mem_nil, false_implies, implies_true, and_true]
      refine ⟨?_, ?_, ?_, prime_545358713, prime_297159362677⟩ <;> norm_num)
    (by decide +kernel) (by decide +kernel)

theorem prime_341948486974166000522343609283189 : Nat.Prime 341948486974166000522343609283189 :=
  prime_of_factors 341948486974166000522343609283189 2
    [2, 2, 3, 3, 3, 109, 29047611873442575647497758179]
    (by norm_num) (by norm_num)
    (by
      simp only [List.forall_mem_cons, List.not_mem_nil, false_implies, implies_true, and_true]
      refine ⟨?_, ?_, ?_, ?_, ?_, ?_, prime_29047611873442575647497758179⟩ <;> norm_num)
    (by decide +kernel) (by decide +kernel)

theorem secp256k1_n_prime : Nat.Prime 115792089237316195423570985008687907852837564279074904382605163141518161494337 :=
  prime_of_factors 115792089237316195423570985008687907852837564279074904382605163141518161494337 7
    [2, 2, 2, 2, 2, 2, 3, 149, 631, 107361793816595537, 174723607534414371449, 341948486974166000522343609283189]
    (by norm_num) (by norm_num)
    (by
      simp only [List.forall_mem_cons, List.not_mem_nil, false_implies, implies_true, and_true]
      refine ⟨?_, ?_, ?_, ?_, ?_, ?_, ?_, ?_, ?_, prime_107361793816595537, prime_174723607534414371449, prime_341948486974166000522343609283189⟩ <;> norm_num)
    (by decide +kernel) (by decide +kernel)

/-- 00_scope.md R13 holds of the default curve. -/
theorem secp256k1_legal : Config.secp256k1.Legal where
  p_prime    := secp256k1_p_prime
  p_mod_four := by decide
  a_range    := by decide
  b_range    := by decide
  base_on    := by decide +kernel
  n_prime    := secp256k1_n_prime
  n_lt_p     := by decide
  n_bits     := by decide +kernel
  base_order := by decide +kernel

/-- The defaults are legal values (00_scope.md section 3). -/
theorem defaultBuild_legal : Config.defaultBuild.Legal where
  maxBits_range   := by decide
  maxBits_step    := by decide
  p_fits          := by decide +kernel
  digitBits_legal := by decide
  imemWords_range := by decide
  dmemBytes_range := by decide
  dmemBytes_step  := by decide
  curve_legal     := secp256k1_legal

end Sys2Proof.Machine
end

