-- ==== Sys2Proof/Machine/Asm.lean ====
section
/-! DEFINITION. The assembler syntax and the pseudo-instructions (30_encoding.md R77, R78): from source text
to words placed at IMEM indexes. The engine never sees text; this file is the notation of
95_test_vectors.md's programs made exact (log 27). -/

namespace Sys2Proof.Machine.Asm

/-- Why a source text is no program. -/
inductive AsmError where
  | malformedLine (line : Nat)
  | badInstruction (line : Nat)
  | labelTwice (line : Nat)
deriving DecidableEq, Repr

/-! ## Lines -/

/-- A token of a line: a word, a comma or a colon. -/
inductive Token where
  | word (w : String)
  | comma
  | colon
deriving DecidableEq, Repr

/-- A word that has ended, before the tokens after it. -/
def flushWord (w : List Char) (rest : List Token) : List Token :=
  match w with
  | [] => rest
  | _ :: _ => .word (String.ofList w.reverse) :: rest

/-- The tokens of a line, `w` the letters of the current word, last first. `;` starts a comment. -/
def tokens (w : List Char) : List Char → List Token
  | [] => flushWord w []
  | c :: cs =>
    if c = ';' then flushWord w []
    else if c = ',' then flushWord w (.comma :: tokens [] cs)
    else if c = ':' then flushWord w (.colon :: tokens [] cs)
    else if c = ' ' ∨ c = '\t' ∨ c = '\r' then flushWord w (tokens [] cs)
    else tokens (c :: w) cs

/-- The operands after a mnemonic: words with commas between them. -/
def operands? : List Token → Option (List String)
  | [] => some []
  | [.word w] => some [w]
  | .word w :: .comma :: rest =>
    match operands? rest with
    | none | some [] => none
    | some ws => some (w :: ws)
  | _ => none

/-- What a line says besides its label. -/
inductive Statement where
  | empty
  | org (index : String)
  | op (mnemonic : String) (operands : List String)
deriving DecidableEq, Repr

/-- A mnemonic in lower case: mnemonics are case-insensitive (R77). -/
def lower (w : String) : String := String.ofList (w.toList.map Char.toLower)

/-- A line without its label. -/
def statement? : List Token → Option Statement
  | [] => some .empty
  | [.word ".org", .word n] => some (.org n)
  | .word m :: rest => (operands? rest).map fun ws => .op (lower m) ws
  | _ => none

/-- A line: an optional label `name:`, then a statement. -/
def line? (l : List Char) : Option (Option String × Statement) :=
  match tokens [] l with
  | .word name :: .colon :: rest => (statement? rest).map fun st => (some name, st)
  | ts => (statement? ts).map fun st => (none, st)

/-- The lines of a text. -/
def splitLines (l : List Char) : List Char → List (List Char)
  | [] => [l.reverse]
  | c :: cs => if c = '\n' then l.reverse :: splitLines [] cs else splitLines (c :: l) cs

/-! ## Operands -/

/-- An ASCII word as bytes, for the digit functions of 42_bigint_conversion.md R93. -/
def asciiBytes? (w : List Char) : Option (List Byte) :=
  if w.all fun c => c.toNat < 128 then some (w.map fun c => BitVec.ofNat 8 c.toNat) else none

/-- An unsigned immediate: decimal, or `0x` hexadecimal (R77). -/
def unsigned? (w : String) : Option Nat :=
  match w.toList with
  | '0' :: 'x' :: ds => (asciiBytes? ds).bind (digits? .hex)
  | ds => (asciiBytes? ds).bind (digits? .dec)

/-- An unsigned immediate of k bits. -/
def field? (k : Nat) (w : String) : Option (BitVec k) :=
  match unsigned? w with
  | none => none
  | some v => if v < 2 ^ k then some (BitVec.ofNat k v) else none

/-- LDI's immediate: a decimal with an optional `-`, or hexadecimal, from −32768 to 32767 (R77, 46_sequencer.md R130). -/
def signed16? (w : String) : Option (BitVec 16) :=
  match w.toList with
  | '-' :: ds =>
    match (asciiBytes? ds).bind (digits? .dec) with
    | none => none
    | some v => if v ≤ 32768 then some (-(BitVec.ofNat 16 v)) else none
  | _ =>
    match unsigned? w with
    | none => none
    | some v => if v ≤ 32767 then some (BitVec.ofNat 16 v) else none

/-- b0 to b15 (R77). -/
def bReg? (w : String) : Option BReg :=
  (List.finRange 16).find? fun r =>
    ["b0", "b1", "b2", "b3", "b4", "b5", "b6", "b7", "b8", "b9", "b10", "b11", "b12", "b13", "b14",
      "b15"][r.val]? == some w

/-- p0 to p7 (R77). -/
def pReg? (w : String) : Option PReg :=
  (List.finRange 8).find? fun r =>
    ["p0", "p1", "p2", "p3", "p4", "p5", "p6", "p7"][r.val]? == some w

/-- The condition names (R77). -/
def cond? (w : String) : Option Cond :=
  match w with
  | "z" => some .z | "nz" => some .nz | "n" => some .n | "nn" => some .nn
  | "lt" => some .lt | "ge" => some .ge | "eq" => some .eq | "ne" => some .ne
  | "gt" => some .gt | "le" => some .le | "t" => some .t | "nt" => some .nt
  | _ => none

/-- The selector names, or 0 to 5 (R77). -/
def selector? (w : String) : Option CurveConst :=
  match w with
  | "p" => some .p | "a" => some .a | "b" => some .b | "n" => some .n
  | "gx" => some .gx | "gy" => some .gy
  | _ => (field? 16 w).bind curveConstOf?

/-- Labels and their indexes. -/
abbrev Labels := List (String × Nat)

/-- A target: a label or an unsigned immediate (R77). A name that is a label is that label, also where it
reads as a number. DESIGN CHOICE (log 29), safe. -/
def target? (labels : Labels) (w : String) : Option (BitVec 16) :=
  match labels.find? fun l => l.1 == w with
  | some l => if l.2 < 2 ^ 16 then some (BitVec.ofNat 16 l.2) else none
  | none => field? 16 w

/-! ## Instructions -/

/-- The pseudo-instructions, each one instruction of the map (R78); any other statement is itself. -/
def expandPseudo (mnemonic : String) (ws : List String) : String × List String :=
  match mnemonic, ws with
  | "clr", [a] => ("ldi", [a, "0"])
  | "b", [t] => ("jmp", [t])
  | "bz", [t] => ("br", ["z", t])
  | "bnz", [t] => ("br", ["nz", t])
  | "beq", [t] => ("br", ["eq", t])
  | "bne", [t] => ("br", ["ne", t])
  | "blt", [t] => ("br", ["lt", t])
  | "bge", [t] => ("br", ["ge", t])
  | "bgt", [t] => ("br", ["gt", t])
  | "ble", [t] => ("br", ["le", t])
  | "bt", [t] => ("br", ["t", t])
  | "bnt", [t] => ("br", ["nt", t])
  | m, ws => (m, ws)

/-- Three BigInt registers. -/
def bbb? (f : BReg → BReg → BReg → Instr) (a b c : String) : Option Instr := do
  let a ← bReg? a
  let b ← bReg? b
  let c ← bReg? c
  pure (f a b c)

/-- A point register and two BigInt registers. -/
def pbb? (f : PReg → BReg → BReg → Instr) (a b c : String) : Option Instr := do
  let a ← pReg? a
  let b ← bReg? b
  let c ← bReg? c
  pure (f a b c)

/-- A register and a DMEM operand. -/
def mem? (f : BReg → BitVec 12 → BitVec 8 → Instr) (a addr len : String) : Option Instr := do
  let a ← bReg? a
  let addr ← field? 12 addr
  let len ← field? 8 len
  pure (f a addr len)

/-- A shift. -/
def shift? (f : BReg → BReg → BitVec 16 → Instr) (a b s : String) : Option Instr := do
  let a ← bReg? a
  let b ← bReg? b
  let s ← field? 16 s
  pure (f a b s)

/-- The operand order of each mnemonic (R77). -/
def instr? (labels : Labels) (mnemonic : String) (ws : List String) : Option Instr :=
  match mnemonic, ws with
  | "nop", [] => some .nop
  | "halt", [] => some .halt
  | "jmp", [t] => (target? labels t).map .jmp
  | "br", [k, t] => do pure (.br (← cond? k) (← target? labels t))
  | "mov", [a, b] => do pure (.mov (← bReg? a) (← bReg? b))
  | "ldi", [a, i] => do pure (.ldi (← bReg? a) (← signed16? i))
  | "ldc", [a, k] => do pure (.ldc (← bReg? a) (← selector? k))
  | "add", [a, b, c] => bbb? .add a b c
  | "sub", [a, b, c] => bbb? .sub a b c
  | "mul", [a, b, c] => bbb? .mul a b c
  | "div", [a, b, c] => bbb? .div a b c
  | "rem", [a, b, c] => bbb? .rem a b c
  | "mod", [a, b, c] => bbb? .mod a b c
  | "modinv", [a, b, c] => bbb? .modinv a b c
  | "modexp", [a, b, c, d] => do
    pure (.modexp (← bReg? a) (← bReg? b) (← bReg? c) (← bReg? d))
  | "cmp", [b, c] => do pure (.cmp (← bReg? b) (← bReg? c))
  | "shl", [a, b, i] => shift? .shl a b i
  | "shr", [a, b, i] => shift? .shr a b i
  | "bitlen", [a, b] => do pure (.bitlen (← bReg? a) (← bReg? b))
  | "bit", [b, c] => do pure (.bit (← bReg? b) (← bReg? c))
  | "biti", [b, i] => do pure (.biti (← bReg? b) (← field? 16 i))
  | "ldbe", [a, m, l] => mem? .ldbe a m l
  | "ldle", [a, m, l] => mem? .ldle a m l
  | "ldhex", [a, m, l] => mem? .ldhex a m l
  | "lddec", [a, m, l] => mem? .lddec a m l
  | "stbe", [a, m, l] => mem? .stbe a m l
  | "stle", [a, m, l] => mem? .stle a m l
  | "sthex", [a, m, l] => mem? .sthex a m l
  | "stdec", [a, m, l] => mem? .stdec a m l
  | "digz", [a, m, l] => mem? .digz a m l
  | "pinf", [a] => (pReg? a).map .pinf
  | "pgen", [a] => (pReg? a).map .pgen
  | "pmk", [a, b, c] => pbb? .pmk a b c
  | "px", [a, b] => do pure (.px (← bReg? a) (← pReg? b))
  | "py", [a, b] => do pure (.py (← bReg? a) (← pReg? b))
  | "pisinf", [b] => (pReg? b).map .pisinf
  | "padd", [a, b, c] => do pure (.padd (← pReg? a) (← pReg? b) (← pReg? c))
  | "pdbl", [a, b] => do pure (.pdbl (← pReg? a) (← pReg? b))
  | "pmul", [a, b, c] => do pure (.pmul (← pReg? a) (← bReg? b) (← pReg? c))
  | "sign", [a, b, c] => bbb? (fun a b c => .sign a b c false) a b c
  | "sign", [a, b, c, "lows"] => bbb? (fun a b c => .sign a b c true) a b c
  | "verify", [a, b, c] => pbb? .verify a b c
  | "recover", [a, b, c] => pbb? .recover a b c
  | _, _ => none

/-- One statement's instruction, if the encoding has it (R73, R76). -/
def assembleOp (labels : Labels) (mnemonic : String) (ws : List String) : Option Instr :=
  (instr? labels (expandPseudo mnemonic ws).1 (expandPseudo mnemonic ws).2).bind onlyWellFormed

/-! ## Programs -/

/-- The labels of the lines from line number `n` on: a label stands for the index of the next instruction,
`.org` sets that index (R77). `pending` are the labels whose instruction has not come yet. A label defined
twice is an error: DESIGN CHOICE (log 29), safe. -/
def labelsFrom (n index : Nat) (pending : List String) (known : Labels) :
    List (List Char) → Except AsmError Labels
  | [] => .ok (pending.map (·, index) ++ known)
  | l :: ls =>
    match line? l with
    | none => .error (.malformedLine n)
    | some (label, st) =>
      let pending' := label.toList ++ pending
      if label.toList.any fun x => pending.contains x || known.any fun k => k.1 == x then
        .error (.labelTwice n)
      else match st with
        | .empty => labelsFrom (n + 1) index pending' known ls
        | .org i =>
          match unsigned? i with
          | none => .error (.malformedLine n)
          | some i => labelsFrom (n + 1) i pending' known ls
        | .op _ _ => labelsFrom (n + 1) (index + 1) [] (pending'.map (·, index) ++ known) ls

/-- The known labels and `.`, the index of the instruction it stands in. R77 has no such operand; `jmp .` of
46_sequencer.md R127 is a jump to itself. DEDUCED (log 30), safe. -/
def withHere (index : Nat) (labels : Labels) : Labels := (".", index) :: labels

/-- The words of the lines from line number `n` on, in the order of the lines. An `.org` may set any index,
also one that has its word already or lies past IMEM. DESIGN CHOICE (log 29), safe. -/
def wordsFrom (labels : Labels) (n index : Nat) : List (List Char) → Except AsmError (List (Nat × Word))
  | [] => .ok []
  | l :: ls =>
    match line? l with
    | none => .error (.malformedLine n)
    | some (_, .empty) => wordsFrom labels (n + 1) index ls
    | some (_, .org i) =>
      match unsigned? i with
      | none => .error (.malformedLine n)
      | some i => wordsFrom labels (n + 1) i ls
    | some (_, .op m ws) =>
      match assembleOp (withHere index labels) m ws with
      | none => .error (.badInstruction n)
      | some i => (wordsFrom labels (n + 1) (index + 1) ls).map fun rest => (index, encode i) :: rest

/-- A source text's words with their IMEM indexes (R77, R78). -/
def assemble (source : String) : Except AsmError (List (Nat × Word)) :=
  let lines := splitLines [] source.toList
  match labelsFrom 1 0 [] [] lines with
  | .error e => .error e
  | .ok labels => wordsFrom labels 1 0 lines

end Sys2Proof.Machine.Asm
end

