-- ==== Sys2Proof/Tests/Slice0.lean ====
section
/-! SUPPORT. Tests, each on one decoding or one step, with results from the rules and vectors of spec/ or, for
the small curves, from a calculation by hand of the rules; and for every statement with hypotheses a witness that
meets them, clause by clause. -/

namespace Sys2Proof.Tests

open Sys2Proof Sys2Proof.Machine

-- One thread: each test is a kernel evaluation of its own.
set_option Elab.async false

/-! ## Helpers -/

/-- y² = x³ + 7 over 43 elements, G = (2, 12) of order 31 (the whole group). -/
def smallCurve : Config.Curve := ⟨43, 0, 7, 31, 2, 12⟩

/-- y² = x³ + x + 18 over 23 elements, G = (0, 8) of order 13, and (7, 0) of order 2. -/
def evenCurve : Config.Curve := ⟨23, 1, 18, 13, 0, 8⟩

/-- A small legal build on a curve. -/
def smallBuild (c : Config.Curve) : Config.Build := ⟨256, 64, 16, 16, c⟩

/-- The reset state of a build with registers, points and DMEM bytes from 0. -/
def machine (k : Config.Build) (bs : List (BReg × Int)) (ps : List (PReg × Point)) (bytes : List Byte) : State :=
  let s := bs.foldl (fun s x => s.setB x.1 x.2) (State.powerOn k)
  let s := ps.foldl (fun s x => s.setP x.1 x.2) s
  { s with dmem := writeBytes [] 0 bytes }

/-- On the default build. -/
def regs (bs : List (BReg × Int)) : State := machine Config.defaultBuild bs [] []

/-- On the small build. -/
def small (bs : List (BReg × Int)) (ps : List (PReg × Point)) : State :=
  machine (smallBuild smallCurve) bs ps []

/-- The state with nonce k below 2^32 in the port. -/
def withNonce (k : Nat) (s : State) : State :=
  { s with nonceValid := true, nonceW := (Vector.replicate 8 0).set 0 (BitVec.ofNat 32 k) }

/-- One step with the word where it is fetched answers a state of which the check holds. -/
def runs (w : Nat) (s : State) (check : State → Bool) : Bool :=
  match step (s.withFetchWord 32 w) with
  | .next t => check t
  | .fault _ | .refused _ => false

/-- The register holds v, Z and N are those of v, PC is 1 and nothing was recorded. -/
def gave (r : BReg) (v : Int) (t : State) : Bool :=
  t.vb[r] && decide (t.b[r] = v) && decide (t.flags.z = decide (v = 0)) &&
    decide (t.flags.n = decide (v < 0)) && decide (t.pc = 1) && !t.err

/-- The point register holds pt and PC is 1. -/
def gavePoint (r : PReg) (pt : Point) (t : State) : Bool :=
  t.vp[r] && decide (t.p[r] = pt) && decide (t.pc = 1) && !t.err

/-- The engine stopped with this code at 0. -/
def failed (code : BitVec 8) (t : State) : Bool :=
  t.err && decide (t.errCode = code) && decide (t.errPc = 0) && decide (t.pc = 0) &&
    decide (t.runState = .idle)

/-- These bytes stand at `a`. -/
def holds (a : Nat) (bytes : List Byte) (t : State) : Bool :=
  (List.range bytes.length).all fun j => decide (Cells.read t.dmem (a + j) = bytes[j]?)

/-! ## Well-formedness (30_encoding.md R73, R76) -/

theorem test_wellFormed_sign_group : (Instr.sign 14 1 2 false).wellFormed = false ∧
    (Instr.sign 13 1 2 false).wellFormed = true := by decide
theorem test_wellFormed_verify_group : (Instr.verify 1 15 2).wellFormed = false ∧
    (Instr.verify 1 14 2).wellFormed = true := by decide
theorem test_wellFormed_recover_group : (Instr.recover 2 14 2).wellFormed = false ∧
    (Instr.recover 2 13 2).wellFormed = true := by decide

/-! ## Decoding: words written out from R69 and R74, each field with a value of its own -/

theorem test_decode_sequencer :
    decode 0x00000000 = .ok .nop ∧ decode 0x01000000 = .ok .halt ∧ decode 0x0200BEEF = .ok (.jmp 0xBEEF) ∧
    decode 0x0390BEEF = .ok (.br .le 0xBEEF) ∧ decode 0x10210000 = .ok (.mov 2 1) ∧
    decode 0x11A08001 = .ok (.ldi 10 0x8001) ∧ decode 0x12B00005 = .ok (.ldc 11 .gy) := by decide +kernel

theorem test_decode_conditions :
    (List.range 16).map (fun k => decode (BitVec.ofNat 32 (0x03000007 + k * 0x100000))) =
      [.ok (.br .z 7), .ok (.br .nz 7), .ok (.br .n 7), .ok (.br .nn 7), .ok (.br .lt 7), .ok (.br .ge 7),
        .ok (.br .eq 7), .ok (.br .ne 7)] ++
      [.ok (.br .gt 7), .ok (.br .le 7), .ok (.br .t 7), .ok (.br .nt 7), .error .constraint,
        .error .constraint, .error .constraint, .error .constraint] := by decide +kernel

theorem test_decode_bigInt :
    decode 0x20A5C000 = .ok (.add 10 5 12) ∧ decode 0x21A5C000 = .ok (.sub 10 5 12) ∧
    decode 0x22A5C000 = .ok (.mul 10 5 12) ∧ decode 0x23A5C000 = .ok (.div 10 5 12) ∧
    decode 0x24A5C000 = .ok (.rem 10 5 12) ∧ decode 0x2505C000 = .ok (.cmp 5 12) ∧
    decode 0x28A5C0DE = .ok (.shl 10 5 0xC0DE) ∧ decode 0x29A5C0DE = .ok (.shr 10 5 0xC0DE) ∧
    decode 0x2AA50000 = .ok (.bitlen 10 5) ∧ decode 0x2B05C000 = .ok (.bit 5 12) ∧
    decode 0x2C05C0DE = .ok (.biti 5 0xC0DE) := by decide +kernel

theorem test_decode_modular :
    decode 0x30A5C000 = .ok (.mod 10 5 12) ∧ decode 0x31A5C300 = .ok (.modexp 10 5 12 3) ∧
    decode 0x32A5C000 = .ok (.modinv 10 5 12) := by decide +kernel

theorem test_decode_conversion :
    decode 0x40AABC5D = .ok (.ldbe 10 0xABC 0x5D) ∧ decode 0x41AABC5D = .ok (.ldle 10 0xABC 0x5D) ∧
    decode 0x42AABC5D = .ok (.stbe 10 0xABC 0x5D) ∧ decode 0x43AABC5D = .ok (.stle 10 0xABC 0x5D) ∧
    decode 0x44AABC5D = .ok (.ldhex 10 0xABC 0x5D) ∧ decode 0x45AABC5D = .ok (.sthex 10 0xABC 0x5D) ∧
    decode 0x46AABC5D = .ok (.lddec 10 0xABC 0x5D) ∧ decode 0x47AABC5D = .ok (.stdec 10 0xABC 0x5D) := by
  decide +kernel

theorem test_decode_points :
    decode 0x50600000 = .ok (.pinf 6) ∧ decode 0x51600000 = .ok (.pgen 6) ∧
    decode 0x5265C000 = .ok (.pmk 6 5 12) ∧ decode 0x53A50000 = .ok (.px 10 5) ∧
    decode 0x54A50000 = .ok (.py 10 5) ∧ decode 0x55050000 = .ok (.pisinf 5) ∧
    decode 0x56653000 = .ok (.padd 6 5 3) ∧ decode 0x57650000 = .ok (.pdbl 6 5) ∧
    decode 0x586C5000 = .ok (.pmul 6 12 5) := by decide +kernel

theorem test_decode_ecdsa :
    decode 0x60AABC5D = .ok (.digz 10 0xABC 0x5D) ∧ decode 0x61A5C000 = .ok (.sign 10 5 12 false) ∧
    decode 0x61A5C001 = .ok (.sign 10 5 12 true) ∧ decode 0x6265C000 = .ok (.verify 6 5 12) ∧
    decode 0x6365C000 = .ok (.recover 6 5 12) := by decide +kernel

/-- 30_encoding.md R76: must-be-zero bits, a point field above 7, constraints, unknown opcodes. -/
theorem test_decode_illegal :
    decode 0x20312001 = .error .mustBeZero ∧ decode 0x25112000 = .error .mustBeZero ∧
    decode 0x50800000 = .error .mustBeZero ∧ decode 0x61412002 = .error .mustBeZero ∧
    decode 0x12100006 = .error .constraint ∧ decode 0x61E12000 = .error .constraint ∧
    decode 0x621F2000 = .error .constraint ∧ decode 0x632E2000 = .error .constraint ∧
    decode 0x04000000 = .error .unknownOpcode ∧ decode 0xFFFFFFFF = .error .unknownOpcode := by decide +kernel

/-- 95_test_vectors.md PROG6, with pseudo-instructions (R78) in place of some of its lines. -/
theorem test_assemble :
    (Asm.assemble "ldi b1, 0x1D ; k\n.org 5\nloop: SUB b2, b2, b3\nbr n, done\nbit b1, b2\nbnt loop\ndone: clr b4\nb 12").toOption =
      some [(0, 0x1110001D), (5, 0x21223000), (6, 0x03200009), (7, 0x2B012000), (8, 0x03B00005),
        (9, 0x11400000), (10, 0x0200000C)] := by decide +kernel

/-- 46_sequencer.md R127's jump to itself. -/
theorem test_assemble_here :
    (Asm.assemble ".org 3\njmp .").toOption = some [(3, 0x02000003)] := by decide +kernel

/-! ## The sequencer (95_test_vectors.md 2.5 and the examples of R125 to R131) -/

theorem test_nop : runs 0x00000000 State.reset (fun t => decide (t.pc = 1) && t.busy) = true := by
  decide +kernel
theorem test_halt : runs 0x01000000 State.reset (fun t => decide (t.pc = 0) && t.done && !t.busy) = true := by
  decide +kernel
theorem test_jmp : runs 0x02000005 State.reset (fun t => decide (t.pc = 5)) = true := by decide +kernel
theorem test_br_taken : runs 0x03500010 State.reset (fun t => decide (t.pc = 0x10)) = true := by decide +kernel
theorem test_br_not_taken : runs 0x03400010 State.reset (fun t => decide (t.pc = 1)) = true := by decide +kernel
theorem test_mov : runs 0x10210000 (regs [(1, -9)]) (gave 2 (-9)) = true := by decide +kernel
theorem test_mov_invalid : runs 0x10210000 (regs []) (failed 0x03) = true := by decide +kernel
theorem test_ldi : runs 0x1110FFFF (regs []) (gave 1 (-1)) = true := by decide +kernel
theorem test_ldi_least : runs 0x11108000 (regs []) (gave 1 (-32768)) = true := by decide +kernel
theorem test_ldc : runs 0x12300003 (regs [])
    (gave 3 0xFFFFFFFFFFFFFFFFFFFFFFFFFFFFFFFEBAAEDCE6AF48A03BBFD25E8CD0364141) = true := by decide +kernel

/-! ## BigInt (95_test_vectors.md 2.1, 2.2) -/

theorem test_add_overflow : runs 0x20312000 (regs [(1, 2 ^ 512 - 1), (2, 1)]) (failed 0x05) = true := by
  decide +kernel
theorem test_add_opposite : runs 0x20312000 (regs [(1, 12345), (2, -12345)]) (gave 3 0) = true := by
  decide +kernel
theorem test_sub_borrow : runs 0x21312000 (regs [(1, 2 ^ 128), (2, 1)])
    (gave 3 0xFFFFFFFFFFFFFFFFFFFFFFFFFFFFFFFF) = true := by decide +kernel
theorem test_mul_sign : runs 0x22312000 (regs [(1, -3), (2, 4)]) (gave 3 (-12)) = true := by decide +kernel
theorem test_div_truncates : runs 0x23312000 (regs [(1, -7), (2, 2)]) (gave 3 (-3)) = true := by decide +kernel
theorem test_div_uninit_first : runs 0x23312000 (regs [(2, 0)]) (failed 0x03) = true := by decide +kernel
theorem test_rem_sign_of_dividend : runs 0x24312000 (regs [(1, -7), (2, 2)]) (gave 3 (-1)) = true := by
  decide +kernel
theorem test_rem_zero : runs 0x24312000 (regs [(1, 5), (2, 0)]) (failed 0x11) = true := by decide +kernel
theorem test_cmp : runs 0x25012000 (regs [(1, -5), (2, 3)])
    (fun t => t.flags.lt && !t.flags.eq && !t.flags.gt) = true := by decide +kernel
theorem test_shl : runs 0x28210200 (regs [(1, 1)]) (failed 0x05) = true := by decide +kernel
theorem test_shl_zero : runs 0x2821FFFF (regs [(1, 0)]) (gave 2 0) = true := by decide +kernel
theorem test_shr : runs 0x29210002 (regs [(1, 0x1F)]) (gave 2 7) = true := by decide +kernel
theorem test_bitlen : runs 0x2A210000 (regs [(1, 2 ^ 64)]) (gave 2 65) = true := by decide +kernel
theorem test_bit_huge_index : runs 0x2B012000 (regs [(1, 5), (2, 2 ^ 500)]) (fun t => !t.flags.t && !t.err) = true := by
  decide +kernel
theorem test_bit : runs 0x2B012000 (regs [(1, 5), (2, 2)]) (fun t => t.flags.t) = true := by decide +kernel
theorem test_biti : runs 0x2C010001 (regs [(1, 5)]) (fun t => !t.flags.t && decide (t.pc = 1)) = true := by
  decide +kernel

/-! ## Modular (2.4) -/

theorem test_mod_negative : runs 0x30312000 (regs [(1, -7), (2, 5)]) (gave 3 3) = true := by decide +kernel
theorem test_modexp : runs 0x31412300 (regs [(1, 4), (2, 13), (3, 497)]) (gave 4 445) = true := by
  decide +kernel
theorem test_modinv : runs 0x32312000 (regs [(1, -3), (2, 11)]) (gave 3 7) = true := by decide +kernel
theorem test_modinv_none : runs 0x32312000 (regs [(1, 11), (2, 11)]) (failed 0x12) = true := by decide +kernel

/-! ## Conversion (2.3 and the examples of R95 to R102) -/

theorem test_ldbe : runs 0x40100004 (machine Config.defaultBuild [] [] [1, 2, 3, 4]) (gave 1 0x01020304) = true := by
  decide +kernel
theorem test_ldle : runs 0x41100004 (machine Config.defaultBuild [] [] [1, 2, 3, 4]) (gave 1 0x04030201) = true := by
  decide +kernel
theorem test_stbe : runs 0x42102004 (regs [(1, 0x0102)])
    (fun t => holds 0x20 [0, 0, 1, 2] t && decide (t.slen = 4)) = true := by decide +kernel
theorem test_stbe_minimal_zero : runs 0x42102000 (regs [(1, 0)])
    (fun t => holds 0x20 [0] t && decide (t.slen = 1) && decide (t.dmem.length = 1)) = true := by decide +kernel
theorem test_stle : runs 0x43102004 (regs [(1, 0x0102)])
    (fun t => holds 0x20 [2, 1, 0, 0] t && decide (t.slen = 4)) = true := by decide +kernel
theorem test_ldhex : runs 0x44100003 (machine Config.defaultBuild [] [] [0x2D, 0x31, 0x61]) (gave 1 (-26)) = true := by
  decide +kernel
theorem test_ldhex_prefix : runs 0x44100004
    (machine Config.defaultBuild [] [] [0x30, 0x78, 0x31, 0x61]) (failed 0x10) = true := by decide +kernel
theorem test_sthex : runs 0x45104008 (regs [(1, -26)])
    (fun t => holds 0x40 [0x2D, 0x31, 0x61] t && decide (t.slen = 3)) = true := by decide +kernel
theorem test_lddec : runs 0x46200004 (machine Config.defaultBuild [] [] [0x2D, 0x31, 0x32, 0x30]) (gave 2 (-120)) = true := by
  decide +kernel
theorem test_stdec : runs 0x4720600A (regs [(2, -120)])
    (fun t => holds 0x60 [0x2D, 0x31, 0x32, 0x30] t && decide (t.slen = 4)) = true := by decide +kernel
theorem test_stdec_range : runs 0x472FF80A (regs [(2, 1)]) (failed 0x04) = true := by decide +kernel

/-! ## Points (2.6; and by hand on the small curve) -/

theorem test_pinf : runs 0x50000000 State.reset (gavePoint 0 .inf) = true := by decide +kernel
theorem test_pgen : runs 0x51100000 (small [] []) (gavePoint 1 (.affine 2 12)) = true := by decide +kernel
theorem test_pmk : runs 0x52212000 (small [(1, 2), (2, 31)] []) (gavePoint 2 (.affine 2 31)) = true := by
  decide +kernel
/-- 44_ec_point.md R113: a coordinate that is congruent to a valid one is not reduced. -/
theorem test_pmk_unreduced : runs 0x52212000 (small [(1, 2), (2, -12)] []) (failed 0x13) = true := by decide +kernel
theorem test_px : runs 0x53310000 (small [] [(1, .affine 2 12)]) (gave 3 2) = true := by decide +kernel
theorem test_py : runs 0x54410000 (small [] [(1, .affine 2 12)]) (gave 4 12) = true := by decide +kernel
theorem test_py_inf : runs 0x54410000 (small [] [(1, .inf)]) (failed 0x09) = true := by decide +kernel
theorem test_pisinf : runs 0x55000000 (small [] [(0, .inf)]) (fun t => t.flags.t) = true := by decide +kernel
/-- 44_ec_point.md R117, R118: G + 2G and 2G on secp256k1. -/
theorem test_padd : runs 0x56312000 (machine Config.defaultBuild [] [(1, basePoint Config.secp256k1),
      (2, .affine 0xC6047F9441ED7D6D3045406E95C07CD85C778E4B8CEF3CA7ABAC09B95C709EE5
        0x1AE168FEA63DC339A3C58419466CEAEEF7F632653266D0E1236431A950CFE52A)] [])
    (gavePoint 3 (.affine 0xF9308A019258C31049344F85F89D5229B531C845836F99B08601F113BCE036F9
      0x388F7B0F632DE8140FE337E62A37F3566500A99934C2231B6CB9FD7584B8E672)) = true := by decide +kernel
theorem test_padd_equal : runs 0x56311000 (small [] [(1, .affine 2 12)]) (gavePoint 3 (.affine 7 7)) = true := by
  decide +kernel
theorem test_pdbl : runs 0x57210000 (machine Config.defaultBuild [] [(1, basePoint Config.secp256k1)] [])
    (gavePoint 2 (.affine 0xC6047F9441ED7D6D3045406E95C07CD85C778E4B8CEF3CA7ABAC09B95C709EE5
      0x1AE168FEA63DC339A3C58419466CEAEEF7F632653266D0E1236431A950CFE52A)) = true := by decide +kernel
theorem test_pmul : runs 0x58311000 (small [(1, 30)] [(1, .affine 2 12)]) (gavePoint 3 (.affine 2 31)) = true := by
  decide +kernel
theorem test_pmul_order : runs 0x58311000 (small [(1, 31)] [(1, .affine 2 12)]) (gavePoint 3 .inf) = true := by
  decide +kernel

/-! ## ECDSA (2.7; and by hand on the small curve) -/

/-- Vector Z2. -/
theorem test_digz : runs 0x60100021 (machine Config.defaultBuild [] [] (1 :: List.replicate 32 0))
    (gave 1 (2 ^ 248)) = true := by decide +kernel
/-- Vector S2: with low-s. -/
theorem test_sign_low : runs 0x61412001 (withNonce 3 (regs [(1, 2), (2, 5)]))
    (fun t => decide (t.b[(4 : BReg)] = 0xF9308A019258C31049344F85F89D5229B531C845836F99B08601F113BCE036F9) &&
      decide (t.b[(5 : BReg)] = 0x59DFA3FEF3C4D34A79DD20515A41C93841E3020DACFE39C61126687FA7A0C744) &&
      decide (t.b[(6 : BReg)] = 1) && !t.nonceValid && decide (t.pc = 1)) = true := by decide +kernel
/-- Vector S13: the nonce stays consumed. -/
theorem test_sign_nonce_range : runs 0x61412000 (withNonce 0 (regs [(1, 2), (2, 5)]))
    (fun t => failed 0x0B t && !t.nonceValid) = true := by decide +kernel
/-- d = 2, z = 5, k = 3: (4, 25, 3) verifies under 2G. -/
theorem test_verify : runs 0x62142000 (small [(4, 4), (5, 25), (2, 5)] [(1, .affine 7 7)])
    (fun t => t.flags.t && decide (t.pc = 1)) = true := by decide +kernel
theorem test_verify_wrong_digest : runs 0x62142000 (small [(4, 4), (5, 25), (2, 6)] [(1, .affine 7 7)])
    (fun t => !t.flags.t && decide (t.pc = 1)) = true := by decide +kernel
/-- The low-s form of the same signature gives 2G back. -/
theorem test_recover : runs 0x63242000 (small [(4, 4), (5, 6), (6, 2), (2, 5)] [])
    (gavePoint 2 (.affine 7 7)) = true := by decide +kernel
/-- R = G and z = s: Q = INF, as in vector RC14. -/
theorem test_recover_mismatch : runs 0x63242000 (small [(4, 2), (5, 1), (6, 0), (2, 1)] []) (failed 0x16) = true := by
  decide +kernel

/-! ## The host -/

/-- 20_memory.md R53's example, one turn. -/
theorem test_host_write : (match step (facingWrite 0x8000 0x44332211 State.reset) with
    | .next t => holds 0 [0x11, 0x22, 0x33, 0x44] t
    | .fault _ | .refused _ => false) = true := by decide +kernel
/-- 20_memory.md R52. -/
theorem test_host_unaligned : (match step (facingWrite 0x8002 0 State.reset) with
    | .refused .hostAccessOutsideInterface => true
    | .next _ | .fault _ | .refused _ => false) = true := by decide +kernel

/-! ## Witnesses: states and operands that meet the hypotheses of the statements, clause by clause -/

theorem smallCurve_legal : smallCurve.Legal where
  p_prime := by show Nat.Prime 43; norm_num
  p_mod_four := by decide
  a_range := by decide
  b_range := by decide
  base_on := by decide +kernel
  n_prime := by show Nat.Prime 31; norm_num
  n_lt_p := by decide
  n_bits := by decide +kernel
  base_order := by decide +kernel

theorem evenCurve_legal : evenCurve.Legal where
  p_prime := by show Nat.Prime 23; norm_num
  p_mod_four := by decide
  a_range := by decide
  b_range := by decide
  base_on := by decide +kernel
  n_prime := by show Nat.Prime 13; norm_num
  n_lt_p := by decide
  n_bits := by decide +kernel
  base_order := by decide +kernel

theorem smallBuild_legal {c : Config.Curve} (h : c.Legal) (hp : bitlen c.p.toNat ≤ 256) : (smallBuild c).Legal where
  maxBits_range := by simp [smallBuild]
  maxBits_step := by simp [smallBuild]
  p_fits := hp
  digitBits_legal := by simp [smallBuild]
  imemWords_range := by simp [smallBuild]
  dmemBytes_range := by simp [smallBuild]
  dmemBytes_step := by simp [smallBuild]
  curve_legal := h

theorem small_legal : (smallBuild smallCurve).Legal := smallBuild_legal smallCurve_legal (by decide +kernel)

theorem even_legal : (smallBuild evenCurve).Legal := smallBuild_legal evenCurve_legal (by decide +kernel)

/-- On the small build with the even curve. -/
def even (bs : List (BReg × Int)) (ps : List (PReg × Point)) : State := machine (smallBuild evenCurve) bs ps []

/-- The engine in RUN with a word at PC = 15, the last of the small build. -/
def running (w : Word) : State := { small [] [] with runState := .run, pc := 15, imem := [(15, w)] }

/-- A memory holds these bytes, as a Bool. -/
def holdsB (m : List Host.Cell) (a : Nat) (bytes : List Byte) : Bool :=
  (List.range bytes.length).all fun j => decide (Cells.read m (a + j) = bytes[j]?)

theorem holds_of {m : List Host.Cell} {a : Nat} {bytes : List Byte} (h : holdsB m a bytes = true) :
    Holds m a bytes := by
  intro j hj
  have := List.all_eq_true.1 h j (List.mem_range.2 hj)
  simpa [hj] using this

theorem witness_DecodeInvertsEncode : (Instr.sign 13 15 15 true).wellFormed = true ∧
    (Instr.verify 7 14 15).wellFormed = true ∧ (Instr.recover 7 13 15).wellFormed = true ∧
    (Instr.stdec 15 0xFFF 0xFF).wellFormed = true := by decide

theorem witness_EncodeInvertsDecode : decode 0x61DFF001 = .ok (.sign 13 15 15 true) ∧
    decode 0x627EF000 = .ok (.verify 7 14 15) ∧ decode 0x637DF000 = .ok (.recover 7 13 15) := by decide +kernel

/-- Each clause of R76's list has a word, at a boundary of its range where it has one. -/
theorem illegal_words :
    IllegalWord 0x04000000 ∧ IllegalWord 0xFF000000 ∧ IllegalWord 0x20312001 ∧ IllegalWord 0x03C00000 ∧
      IllegalWord 0x12100006 ∧ IllegalWord 0x61E12000 ∧ IllegalWord 0x621F2000 ∧ IllegalWord 0x632E2000 := by
  refine ⟨.inl ?_, .inl ?_, .inr (.inl ⟨opcodeMap[7]'(by decide), List.getElem_mem _, by decide +kernel⟩),
    .inr (.inr (.inl ?_)), .inr (.inr (.inr (.inl ?_))), .inr (.inr (.inr (.inr (.inl ?_)))),
    .inr (.inr (.inr (.inr (.inr (.inl ?_))))), .inr (.inr (.inr (.inr (.inr (.inr ?_)))))⟩
  all_goals first | decide | (unfold UnlistedOpcode; decide)

/-- The engine in RUN fetches a written word. -/
theorem witness_IllegalWordsStopTheEngine (w : Word) :
    EngineMoves (running w) (running w) ∧ (running w).resetLine = false ∧ (running w).runState = .run ∧
      (running w).pc.toNat < (running w).build.imemWords ∧
      Cells.read (running w).imem (running w).pc.toNat = some w :=
  ⟨.inl ⟨rfl, rfl⟩, rfl, rfl, by show 15 < 16; decide, rfl⟩

/-- At the end of IMEM, one past it, and in an unwritten word, each with a turn of the engine scheduled. -/
theorem witness_StepRunsTheFetchedInstruction :
    (EngineMoves (facing .engine (running 0)) (running 0) ∧ (running 0).resetLine = false ∧
      (running 0).runState = .run ∧ (running 0).pc.toNat < (running 0).build.imemWords ∧
      Cells.read (running 0).imem (running 0).pc.toNat = some 0 ∧ decode 0 = .ok .nop) ∧
    (Cells.read (running 0xFFFFFFFF).imem (running 0xFFFFFFFF).pc.toNat = some 0xFFFFFFFF ∧
      decode 0xFFFFFFFF = .error .unknownOpcode) ∧
    (let s := { running 0 with pc := 16 }; s.build.imemWords ≤ s.pc.toNat ∧ s.runState = .run) ∧
    (let s := { running 0 with pc := 14 }; s.pc.toNat < s.build.imemWords ∧
      Cells.read s.imem s.pc.toNat = none) := by
  refine ⟨⟨.inr ⟨[], rfl, rfl⟩, rfl, rfl, ?_⟩, ?_⟩ <;> decide +kernel

theorem witness_ControlTransfer :
    let f := (regs []).flags
    ¬ ConditionHolds f (Cond.z).code.toNat ∧ ConditionHolds f (Cond.nz).code.toNat ∧
      ¬ ConditionHolds f (Cond.t).code.toNat ∧ ConditionHolds f (Cond.nt).code.toNat := by
  simp [ConditionHolds, Cond.code, regs, machine, State.powerOn]

/-- The largest magnitude of the small build fits, in the one valid register. -/
theorem witness_MovesAndConstants :
    let s := small [(1, -(2 ^ 256 - 1))] []
    s.build.Legal ∧ RegistersFit s ∧ s.vb[(1 : BReg)] = true ∧ s.vb[(0 : BReg)] = false := by
  refine ⟨small_legal, ?_, ?_⟩
  · unfold RegistersFit; decide +kernel
  · decide +kernel

/-- One below the capacity, at it, and an invalid source, for each of the three. -/
theorem witness_AddSubMulAreExact :
    let s := small [(1, 2 ^ 256 - 1), (2, 1), (3, -1), (4, 2)] []
    Valid2 s 1 2 ∧ Valid2 s 1 3 ∧ Valid2 s 1 4 ∧ ¬ Valid2 s 1 0 ∧ ¬ Valid2 s 0 1 ∧
      2 ^ s.build.maxBits ≤ (s.b[(1 : BReg)] + s.b[(2 : BReg)]).natAbs ∧
      (s.b[(1 : BReg)] + s.b[(3 : BReg)]).natAbs < 2 ^ s.build.maxBits ∧
      2 ^ s.build.maxBits ≤ (s.b[(1 : BReg)] - s.b[(3 : BReg)]).natAbs ∧
      (s.b[(1 : BReg)] - s.b[(2 : BReg)]).natAbs < 2 ^ s.build.maxBits ∧
      2 ^ s.build.maxBits ≤ (s.b[(1 : BReg)] * s.b[(4 : BReg)]).natAbs ∧
      (s.b[(1 : BReg)] * s.b[(3 : BReg)]).natAbs < 2 ^ s.build.maxBits := by
  unfold Valid2
  decide +kernel

theorem witness_DivRemTruncate :
    let s := small [(1, -(2 ^ 256 - 1)), (2, 0), (3, -1)] []
    RegistersFit s ∧ Valid2 s 1 2 ∧ s.b[(2 : BReg)] = 0 ∧ Valid2 s 1 3 ∧ s.b[(3 : BReg)] ≠ 0 ∧
      ¬ Valid2 s 0 2 := by
  unfold RegistersFit Valid2
  decide +kernel

theorem witness_CompareOrders :
    let s := small [(1, -5), (2, 3)] []
    Valid2 s 1 2 ∧ ¬ Valid2 s 1 0 := by
  unfold Valid2
  decide +kernel

/-- 2^255 shifted by 1 reaches the capacity, by 0 it does not. -/
theorem witness_ShiftsScale :
    let s := small [(1, 2 ^ 255), (2, -1)] []
    RegistersFit s ∧ s.vb[(0 : BReg)] = false ∧ s.vb[(2 : BReg)] = true ∧ s.b[(2 : BReg)] < 0 ∧
      s.vb[(1 : BReg)] = true ∧ 0 ≤ s.b[(1 : BReg)] ∧
      2 ^ s.build.maxBits ≤ s.b[(1 : BReg)] * 2 ^ (1 : BitVec 16).toNat ∧
      s.b[(1 : BReg)] * 2 ^ (0 : BitVec 16).toNat < 2 ^ s.build.maxBits := by
  unfold RegistersFit
  decide +kernel

theorem witness_BitlenIsLeast :
    let s := small [(1, 0), (2, -1)] []
    RegistersFit s ∧ s.vb[(0 : BReg)] = false ∧ s.vb[(2 : BReg)] = true ∧ s.b[(2 : BReg)] < 0 ∧
      s.vb[(1 : BReg)] = true ∧ 0 ≤ s.b[(1 : BReg)] := by
  unfold RegistersFit
  decide +kernel

theorem witness_BitExtraction :
    let s := small [(1, 0), (2, -1)] []
    ¬ Valid2 s 0 1 ∧ Valid2 s 1 1 ∧ 0 ≤ s.b[(1 : BReg)] ∧ Valid2 s 2 1 ∧ s.b[(2 : BReg)] < 0 ∧
      Valid2 s 1 2 ∧ s.vb[(0 : BReg)] = false ∧ s.vb[(2 : BReg)] = true ∧ s.vb[(1 : BReg)] = true := by
  unfold Valid2
  decide +kernel

theorem witness_ModReduces :
    let s := small [(1, -7), (2, 1), (3, 0), (4, -1)] []
    RegistersFit s ∧ ¬ Valid2 s 0 2 ∧ Valid2 s 1 3 ∧ s.b[(3 : BReg)] = 0 ∧ Valid2 s 1 4 ∧
      s.b[(4 : BReg)] < 0 ∧ Valid2 s 1 2 ∧ 0 < s.b[(2 : BReg)] := by
  unfold RegistersFit Valid2
  decide +kernel

/-- The exponent 0 and the modulus 1 among them. -/
theorem witness_ModexpIsThePower :
    let s := small [(1, -7), (2, 1), (3, 0), (4, -1)] []
    RegistersFit s ∧ ¬ (Valid2 s 1 3 ∧ s.vb[(0 : BReg)] = true) ∧ Valid2 s 1 3 ∧ s.vb[(3 : BReg)] = true ∧
      s.b[(3 : BReg)] = 0 ∧ s.vb[(4 : BReg)] = true ∧ s.b[(4 : BReg)] < 0 ∧ s.vb[(2 : BReg)] = true ∧
      0 < s.b[(2 : BReg)] ∧ Valid2 s 1 4 ∧ 0 ≤ s.b[(3 : BReg)] := by
  unfold RegistersFit Valid2
  decide +kernel

/-- The modulus 1 has the inverse 0; 0 modulo 5 has none. -/
theorem witness_ModinvIsTheInverse :
    let s := small [(1, 0), (2, 1), (3, 5), (4, -1)] []
    RegistersFit s ∧ ¬ Valid2 s 0 1 ∧ Valid2 s 1 1 ∧ s.b[(1 : BReg)] = 0 ∧ Valid2 s 1 4 ∧
      s.b[(4 : BReg)] < 0 ∧ Valid2 s 1 3 ∧ 0 < s.b[(3 : BReg)] ∧
      Int.gcd (s.b[(1 : BReg)] % s.b[(3 : BReg)]) s.b[(3 : BReg)] ≠ 1 ∧ Valid2 s 1 2 ∧
      0 < s.b[(2 : BReg)] ∧ Int.gcd (s.b[(1 : BReg)] % s.b[(2 : BReg)]) s.b[(2 : BReg)] = 1 := by
  unfold RegistersFit Valid2
  decide +kernel

/-- The last byte of DMEM, and one past it; lengths 0 and 32 of 256 bits; a value too large needs more bytes than
the small build has, so the default build's 65 of 0xFF stand for it. -/
theorem witness_ByteLoads :
    let s := small [] []
    let d := machine Config.defaultBuild [] [] (List.replicate 65 0xFF)
    s.build.dmemBytes < (15 : BitVec 12).toNat + (2 : BitVec 8).toNat ∧
      (15 : BitVec 12).toNat + (1 : BitVec 8).toNat ≤ s.build.dmemBytes ∧
      8 * (1 : BitVec 8).toNat ≤ s.build.maxBits ∧
      Holds d.dmem 0 (List.replicate 65 0xFF) ∧ (65 : BitVec 8).toNat ≤ d.build.dmemBytes ∧
      2 ^ d.build.maxBits ≤ beValue (List.replicate 65 0xFF) := by
  refine ⟨by decide, by decide, by decide, holds_of ?_, by decide, ?_⟩ <;> decide +kernel

theorem isByteLength_zero : IsByteLength 0 1 := ⟨by decide, by decide, fun _ h _ => h⟩

/-- 0 in its minimal width, 255 and 256 in one byte, ending at the last byte of DMEM and one past it. -/
theorem witness_ByteStores :
    let s := small [(1, 0), (2, 255), (3, 256), (4, -1)] []
    s.vb[(0 : BReg)] = false ∧ s.vb[(4 : BReg)] = true ∧ s.b[(4 : BReg)] < 0 ∧
      (s.vb[(1 : BReg)] = true ∧ IsByteLength s.b[(1 : BReg)].toNat 1 ∧
        (15 : BitVec 12).toNat + 1 ≤ s.build.dmemBytes ∧ s.b[(1 : BReg)] < 256 ^ 1) ∧
      s.vb[(2 : BReg)] = true ∧ (1 : BitVec 8) ≠ 0 ∧ 1 = (1 : BitVec 8).toNat ∧
      s.build.dmemBytes < (16 : BitVec 12).toNat + 1 ∧ s.b[(2 : BReg)] < 256 ^ 1 ∧
      s.vb[(3 : BReg)] = true ∧ 256 ^ 1 ≤ s.b[(3 : BReg)] := by
  refine ⟨by decide +kernel, by decide +kernel, by decide +kernel,
    ⟨by decide +kernel, isByteLength_zero, by decide +kernel⟩, ?_⟩
  decide +kernel

theorem denotes_hex_ff : Denotes .hex [0x66, 0x46] 255 :=
  ⟨255, .inl ⟨⟨[15, 15], by simp, by
    constructor
    · unfold IsDigit; decide
    · constructor
      · unfold IsDigit; decide
      · exact .nil, by decide⟩, rfl⟩⟩

theorem not_denotes_empty (r : Radix) (v : Int) : ¬ Denotes r [] v := by
  rintro ⟨m, ⟨⟨ds, hd, hf, -⟩, -⟩ | ⟨t, ht, -⟩⟩
  · cases hf
    exact hd rfl
  · simp at ht

/-- "fF" at the last two bytes, the empty string, and a range one past the end. -/
theorem witness_StringLoads :
    let s := { small [] [] with dmem := [(14, 0x66), (15, 0x46)] }
    s.build.dmemBytes < (14 : BitVec 12).toNat + (3 : BitVec 8).toNat ∧
      ((14 : BitVec 12).toNat + (2 : BitVec 8).toNat ≤ s.build.dmemBytes ∧
        Holds s.dmem 14 [0x66, 0x46] ∧ Denotes .hex [0x66, 0x46] 255 ∧
        (255 : Int).natAbs < 2 ^ s.build.maxBits) ∧
      (0 : BitVec 12).toNat + (0 : BitVec 8).toNat ≤ s.build.dmemBytes ∧ Holds s.dmem 0 [] ∧
      ∀ v, ¬ Denotes .dec [] v := by
  refine ⟨by decide, ⟨by decide, holds_of (by decide), denotes_hex_ff, by decide +kernel⟩, by decide,
    holds_of (by decide), not_denotes_empty _⟩

/-- A buffer of one byte at the last address holds "0" but not "-1"; one past it is out of range. -/
theorem witness_StringStores :
    let s := small [(1, 0), (2, -1)] []
    s.vb[(0 : BReg)] = false ∧ s.vb[(1 : BReg)] = true ∧
      s.build.dmemBytes < (15 : BitVec 12).toNat + (2 : BitVec 8).toNat ∧
      (15 : BitVec 12).toNat + (1 : BitVec 8).toNat ≤ s.build.dmemBytes ∧
      (canonicalString .dec s.b[(1 : BReg)]).length ≤ (1 : BitVec 8).toNat ∧
      s.vb[(2 : BReg)] = true ∧ (1 : BitVec 8).toNat < (canonicalString .hex s.b[(2 : BReg)]).length := by
  decide +kernel

/-- Each of the four stores of 255 completes, three of them at the last bytes. -/
theorem witness_LoadInvertsStore :
    let s := small [(1, 255)] []
    s.build.Legal ∧ RegistersFit s ∧
      ∀ i ∈ [Instr.stbe 1 15 0, .stle 1 14 2, .sthex 1 14 2, .stdec 1 0 3],
        (match exec i s with
          | .next t => decide (t.pc = s.pc + 1) && decide (t.slen.toNat < 256)
          | .fault _ | .refused _ => false) = true := by
  refine ⟨small_legal, ?_, ?_⟩
  · unfold RegistersFit; decide +kernel
  · decide +kernel

/-- G, its reflection not reduced, and an invalid coordinate. -/
theorem witness_PointConstructors :
    let s := small [(1, 2), (2, 12), (3, 43 - 12), (4, -12)] []
    Valid2 s 1 2 ∧ IsOnCurve s.build.curve s.b[(1 : BReg)] s.b[(2 : BReg)] ∧
      IsOnCurve s.build.curve s.b[(1 : BReg)] s.b[(3 : BReg)] ∧ Valid2 s 1 4 ∧
      ¬ IsOnCurve s.build.curve s.b[(1 : BReg)] s.b[(4 : BReg)] ∧ ¬ Valid2 s 1 0 := by
  unfold Valid2 IsOnCurve
  decide +kernel

theorem witness_PointReads :
    let s := small [] [(1, .inf), (2, .affine 2 12)]
    s.build.Legal ∧ PointsOnCurve s ∧ s.vp[(0 : PReg)] = false ∧
      (s.vp[(1 : PReg)] = true ∧ s.p[(1 : PReg)] = .inf) ∧
      s.vp[(2 : PReg)] = true ∧ s.p[(2 : PReg)] = .affine 2 12 := by
  refine ⟨small_legal, ?_, ?_⟩
  · unfold PointsOnCurve; decide +kernel
  · decide +kernel

/-- INF, G, −G and 2G. -/
theorem witness_PointAdditionLaw :
    let s := small [] [(1, .inf), (2, .affine 2 12), (3, .affine 2 31), (4, .affine 7 7)]
    s.build.Legal ∧ PointsOnCurve s ∧ s.vp[(0 : PReg)] = false ∧ s.vp[(1 : PReg)] = true ∧
      s.p[(1 : PReg)] = .inf ∧ s.vp[(2 : PReg)] = true ∧ s.p[(2 : PReg)] = .affine 2 12 ∧
      s.vp[(3 : PReg)] = true ∧ s.p[(3 : PReg)] = .affine 2 31 ∧ (12 + 31) % s.build.curve.p = 0 ∧
      (12 + 12) % s.build.curve.p ≠ 0 ∧ s.vp[(4 : PReg)] = true ∧ s.p[(4 : PReg)] = .affine 7 7 := by
  refine ⟨small_legal, ?_, ?_⟩
  · unfold PointsOnCurve; decide +kernel
  · decide +kernel

/-- A point of order 2 among them. -/
theorem witness_PointDoublingLaw :
    let s := even [] [(1, .inf), (2, .affine 0 8), (3, .affine 7 0)]
    s.build.Legal ∧ PointsOnCurve s ∧ s.vp[(0 : PReg)] = false ∧ s.vp[(1 : PReg)] = true ∧
      s.p[(1 : PReg)] = .inf ∧ s.vp[(2 : PReg)] = true ∧ s.p[(2 : PReg)] = .affine 0 8 ∧
      s.vp[(3 : PReg)] = true ∧ s.p[(3 : PReg)] = .affine 7 0 := by
  refine ⟨even_legal, ?_, ?_⟩
  · unfold PointsOnCurve; decide +kernel
  · decide +kernel

theorem witness_ScalarMultiplication :
    let s := small [(1, 0), (2, -1)] [(1, .affine 2 12)]
    s.vb[(0 : BReg)] = false ∧ s.vp[(0 : PReg)] = false ∧ s.vb[(1 : BReg)] = true ∧
      s.vp[(1 : PReg)] = true ∧ 0 ≤ s.b[(1 : BReg)] ∧ s.vb[(2 : BReg)] = true ∧ s.b[(2 : BReg)] < 0 := by
  decide +kernel

theorem smallCurve_nonsingular : smallCurve.Nonsingular := by
  unfold Config.Curve.Nonsingular
  decide

/-- INF and points of both curves; on secp256k1 the premises hold too. -/
theorem witness_PointsFormAnAbelianGroup :
    smallCurve.Legal ∧ smallCurve.Nonsingular ∧ (Point.affine 2 12).member smallCurve = true ∧
      Point.inf.member smallCurve = true ∧ Config.secp256k1.Legal ∧ Config.secp256k1.Nonsingular ∧
      evenCurve.Legal ∧ (Point.affine 7 0).member evenCurve = true := by
  refine ⟨smallCurve_legal, smallCurve_nonsingular, by decide +kernel, rfl, secp256k1_legal, ?_,
    evenCurve_legal, by decide +kernel⟩
  unfold Config.Curve.Nonsingular
  decide +kernel

theorem witness_ScalarsActOnTheGroup :
    smallCurve.Legal ∧ smallCurve.Nonsingular ∧ (Point.affine 2 12).member smallCurve = true :=
  ⟨smallCurve_legal, smallCurve_nonsingular, by decide +kernel⟩

theorem isBitLength_31 : IsBitLength 31 5 :=
  ⟨by decide, fun k h => by
    by_contra hk
    have : 2 ^ k ≤ 2 ^ 4 := Nat.pow_le_pow_right (by decide) (by omega)
    omega⟩

/-- bitlen(31) = 5: an empty digest is not shifted, one byte is. -/
theorem witness_DigestReduction :
    let s := small [] []
    s.build.Legal ∧ IsBitLength s.build.curve.n.toNat 5 ∧
      s.build.dmemBytes < (16 : BitVec 12).toNat + (1 : BitVec 8).toNat ∧
      (15 : BitVec 12).toNat + (1 : BitVec 8).toNat ≤ s.build.dmemBytes ∧
      5 < 8 * (1 : BitVec 8).toNat ∧ 8 * (0 : BitVec 8).toNat ≤ 5 :=
  ⟨small_legal, isBitLength_31, by decide, by decide, by decide, by decide⟩

/-- Keys 0, 1, n − 1 and n; nonces 0, 3 and n; on the even curve r = 0 for k = 1; s = 0 for d = 1, z = n − r; a
low and a high s. -/
theorem witness_SignFollowsItsRule :
    let s := small [(1, 0), (2, 1), (3, 30), (4, 31), (5, 5)] []
    s.build.Legal ∧ (13 : BReg).val ≤ 13 ∧ ¬ Valid2 s 1 0 ∧
      (Valid2 s 1 5 ∧ ¬ InRange s.build.curve s.b[(1 : BReg)]) ∧
      (Valid2 s 4 5 ∧ ¬ InRange s.build.curve s.b[(4 : BReg)]) ∧
      (Valid2 s 2 5 ∧ InRange s.build.curve s.b[(2 : BReg)] ∧ s.nonceValid = false) ∧
      (Valid2 s 3 5 ∧ InRange s.build.curve s.b[(3 : BReg)] ∧ (withNonce 3 s).nonceValid = true) ∧
      nonceSum (withNonce 3 s) = 3 ∧ ¬ InRange s.build.curve (0 : Nat) ∧ ¬ InRange s.build.curve (31 : Nat) ∧
      InRange s.build.curve (3 : Nat) := by
  refine ⟨small_legal, ?_⟩
  unfold Valid2 InRange nonceSum
  decide +kernel

/-- The inner clauses of SignsWith: the even curve's G has x = 0; on the small curve 3G = (35, 21) with 35 ≥ n. -/
theorem witness_SignsWith :
    (InRange evenCurve (1 : Nat) ∧ ecMul evenCurve 1 (basePoint evenCurve) = .affine 0 8 ∧
      (0 : Int) % evenCurve.n = 0) ∧
    (ecMul smallCurve 3 (basePoint smallCurve) = .affine 35 21 ∧ (35 : Int) % 31 ≠ 0 ∧ (3 : Int) * 21 % 31 = 1 ∧
      (21 : Int) * (27 + 35 % 31 * 1) % 31 = 0 ∧ (21 : Int) * (5 + 35 % 31 * 2) % 31 = 25 ∧
      (31 : Int) < 2 * 25 ∧ (21 : Int) * (0 + 35 % 31 * 4) % 31 = 26 ∧
      (21 : Int) * (7 + 35 % 31 * 1) % 31 = 14 ∧ 2 * (14 : Int) ≤ 31) := by
  unfold InRange
  decide +kernel

theorem witness_SignWaitsForItsNonce :
    let s := { small [(1, 2), (2, 5)] [] with runState := .nonceWait ⟨4, 1, 2, true⟩ }
    EngineMoves s s ∧ s.resetLine = false ∧ s.runState = .nonceWait ⟨4, 1, 2, true⟩ ∧
      s.nonceValid = false ∧ (withNonce 3 s).nonceValid = true ∧
      (withNonce 3 s).runState = .nonceWait ⟨4, 1, 2, true⟩ :=
  ⟨.inl ⟨rfl, rfl⟩, rfl, rfl, rfl, rfl, rfl⟩

/-- (4, 25) signs 5 under 2G and does not sign 6. -/
theorem accepts_signature : Accepts smallCurve (.affine 7 7) 4 25 5 := by
  refine ⟨by unfold InRange; decide, by unfold InRange; decide, by decide, 5, 35, 21, ?_⟩
  decide +kernel

theorem witness_VerifyFollowsItsRule :
    let s := small [(14, 4), (15, 25), (2, 5), (3, 0)] [(1, .affine 7 7)]
    s.build.Legal ∧ (15 : BReg).val = (14 : BReg).val + 1 ∧
      ¬ (s.vp[(0 : PReg)] = true ∧ Valid2 s 14 15 ∧ s.vb[(2 : BReg)] = true) ∧
      s.vp[(1 : PReg)] = true ∧ Valid2 s 14 15 ∧ s.vb[(2 : BReg)] = true ∧
      Accepts s.build.curve s.p[(1 : PReg)] s.b[(14 : BReg)] s.b[(15 : BReg)]
        (s.b[(2 : BReg)] % s.build.curve.n) ∧
      (Valid2 s 2 3 ∧ ¬ Accepts s.build.curve s.p[(1 : PReg)] s.b[(2 : BReg)] s.b[(3 : BReg)]
        (s.b[(2 : BReg)] % s.build.curve.n)) := by
  refine ⟨small_legal, by decide, by unfold Valid2; decide +kernel, by decide +kernel,
    by unfold Valid2; decide +kernel, by decide +kernel, accepts_signature, by unfold Valid2; decide +kernel, ?_⟩
  rintro ⟨-, ⟨h, -⟩, -⟩
  revert h
  decide +kernel

/-- At the group 13 to 15: r = 0; v = 4 and −1; r = 30 with v = 2 passes p; 1 has no root; and (4, 6, 2), whose
x = 35 has the root 22 of parity 0, which accepts 2G; (2, 1, 0) with z = 1 gives INF. -/
theorem witness_RecoverFollowsItsRule :
    let s := small [(13, 4), (14, 6), (15, 2), (2, 5)] []
    s.build.Legal ∧ (14 : BReg).val = (13 : BReg).val + 1 ∧ (15 : BReg).val = (13 : BReg).val + 2 ∧
      ¬ (Valid2 s 13 14 ∧ Valid2 s 15 0) ∧ Valid2 s 13 14 ∧ Valid2 s 15 2 ∧
      ¬ (InRange smallCurve 0 ∧ InRange smallCurve 6) ∧ InRange smallCurve 4 ∧ InRange smallCurve 6 ∧
      ¬ ((0 : Int) ≤ 4 ∧ (4 : Int) ≤ 3) ∧ ¬ ((0 : Int) ≤ -1) ∧
      ¬ (30 + (2 : Int) / 2 * 31 < smallCurve.p) ∧ InRange smallCurve 30 ∧
      (4 + (2 : Int) / 2 * 31 < smallCurve.p ∧ IsRoot smallCurve (4 + 2 / 2 * 31) (2 % 2) 22) ∧
      (2 + (0 : Int) / 2 * 31 < smallCurve.p ∧ IsRoot smallCurve (2 + 0 / 2 * 31) (0 % 2) 12) ∧
      ¬ Accepts smallCurve .inf 2 1 1 := by
  refine ⟨small_legal, ?_⟩
  unfold Valid2 InRange IsRoot
  refine ⟨by decide, by decide, by decide +kernel, by decide +kernel, by decide +kernel, by decide, by decide,
    by decide, by decide, by decide, by decide, by decide, by decide, by decide, ?_⟩
  rintro ⟨-, -, h, -⟩
  exact h rfl

theorem no_root : ¬ ∃ y, IsRoot smallCurve 1 0 y := by
  rintro ⟨y, h0, h1, h2, h3⟩
  have : ∀ y : Fin 43, ¬ ((y.val : Int) * y.val % 43 = 8) := by decide
  obtain ⟨n, rfl⟩ := Int.eq_ofNat_of_zero_le h0
  have hn : n < 43 := by
    have : (n : Int) < 43 := h1
    omega
  exact this ⟨n, hn⟩ (by simpa [smallCurve] using h2)

/-- SIGN of d = 2, z = 5, k = 3 with low-s completes; z survives; P1 = 2G. -/
theorem witness_SignedMessagesVerify :
    let s := withNonce 3 (small [(1, 2), (2, 5)] [(1, .affine 7 7)])
    s.build.Legal ∧ s.build.curve.Nonsingular ∧
      (∃ t, exec (.sign 3 1 2 true) s = .next t ∧ t.pc = s.pc + 1) ∧ (2 : BReg).val < (3 : BReg).val ∧
      s.vp[(1 : PReg)] = true ∧
      s.p[(1 : PReg)] = ecMul s.build.curve s.b[(1 : BReg)].toNat (basePoint s.build.curve) := by
  refine ⟨small_legal, smallCurve_nonsingular, ?_, by decide, by decide +kernel, by decide +kernel⟩
  refine ⟨wroteSignature 3 4 6 2 (consumed (withNonce 3 (small [(1, 2), (2, 5)] [(1, .affine 7 7)]))), ?_, rfl⟩
  exact congrArg Host.Outcome.next (by decide +kernel : _ = _)

/-- As above, and p = 43 ≤ 62 = 2n. -/
theorem witness_RecoverReturnsTheSigner :
    let s := withNonce 3 (small [(1, 2), (2, 5)] [])
    s.build.Legal ∧ s.build.curve.Nonsingular ∧ s.build.curve.p ≤ 2 * s.build.curve.n ∧
      (∃ t, exec (.sign 3 1 2 true) s = .next t ∧ t.pc = s.pc + 1) ∧ (2 : BReg).val < (3 : BReg).val := by
  refine ⟨small_legal, smallCurve_nonsingular, by decide, ?_, by decide⟩
  refine ⟨wroteSignature 3 4 6 2 (consumed (withNonce 3 (small [(1, 2), (2, 5)] []))), ?_, rfl⟩
  exact congrArg Host.Outcome.next (by decide +kernel : _ = _)

/-! ## Witnesses: the machine -/

/-- The engine in a run state, with B1 = 2, B2 = 5, P1 = 2G, a word at PC = 15 and turns to come. -/
def engine (rs : RunState) (w : Word) (turns : List Turn) : State :=
  { small [(1, 2), (2, 5)] [(1, .affine 7 7)] with runState := rs, pc := 15, imem := [(15, w)], inputs := turns }

/-- The SIGN that waits in the witnesses below. -/
def heldSign : SignOperands := ⟨3, 1, 2, true⟩

theorem engine_inv (rs : RunState) (w : Word) (turns : List Turn)
    (h : rs = .idle ∨ rs = .run ∨ rs = .nonceWait heldSign) : Inv (engine rs w turns) where
  build := small_legal
  registers := by
    show RegistersFit (small [(1, 2), (2, 5)] [(1, .affine 7 7)])
    unfold RegistersFit
    decide +kernel
  points := by
    show PointsOnCurve (small [(1, 2), (2, 5)] [(1, .affine 7 7)])
    unfold PointsOnCurve
    decide +kernel
  memories := by
    show (Memory.wf 16 [(15, w)] && Memory.wf 16 ([] : List Host.Cell)) = true
    simp [Memory.wf, Cells.wfFrom]
  busy := fun _ => ⟨rfl, rfl, rfl, rfl⟩
  code := .inl rfl
  held := by
    rintro held he
    obtain h | h | h := h <;> subst h
    · cases he
    · cases he
    · cases he
      decide
  reset := fun h => by cases h

theorem engine_inv_nonce (rs : RunState) (w : Word) (turns : List Turn) (k : Nat)
    (h : rs = .idle ∨ rs = .run ∨ rs = .nonceWait heldSign) : Inv (withNonce k (engine rs w turns)) :=
  let i := engine_inv rs w turns h
  ⟨i.build, i.registers, i.points, i.memories, i.busy, i.code, i.held, fun h => by cases h⟩

/-- One step answers a state of which the check holds. -/
def steps (s : State) (check : State → Bool) : Bool :=
  match step s with
  | .next t => check t
  | .fault _ | .refused _ => false

/-- The instruction answers a state of which the check holds. -/
def execs (i : Instr) (s : State) (check : State → Bool) : Bool :=
  match exec i s with
  | .next t => check t
  | .fault _ | .refused _ => false

theorem witness_DecodeFollowsTheOpcodeMap :
    ∃ r ∈ opcodeMap, 0x61DFF001#32 &&& r.mask = r.pattern ∧ r.instr 0x61DFF001#32 = some (.sign 13 15 15 true) :=
  ⟨opcodeMap[39]'(by decide), List.getElem_mem _, by decide +kernel⟩

/-- Each way into and out of a run, among them each of the three ends (the hypotheses of RunStateTransitions,
RunsEndInOneOfThreeWays, StepKeepsTheInvariant and PointsStayOnTheCurve, whose Inv is `engine_inv`). -/
theorem witness_RunStateTransitions :
    steps (engine .run 0x01000000 []) (fun t => decide (t.runState = .idle) && t.done) = true ∧
    steps (engine .run 0xFFFFFFFF []) (fun t => decide (t.runState = .idle) && t.err) = true ∧
    steps (engine .run 0 [.write 0x10 .word 2]) (fun t => decide (t.runState = .idle) && decide (t.errCode = 0x0C)) = true ∧
    steps (engine (.nonceWait heldSign) 0 [.write 0x10 .word 3])
      (fun t => decide (t.runState = .idle) && decide (t.errCode = 0x0C)) = true ∧
    steps (engine .run 0 [.assertReset]) (fun t => decide (t.runState = .idle)) = true ∧
    steps (engine .idle 0 [.write 0x10 .word 1]) (fun t => decide (t.runState = .run)) = true ∧
    steps (engine .run 0x61312001 []) (fun t => decide (t.runState = .nonceWait heldSign)) = true ∧
    steps (withNonce 3 (engine (.nonceWait heldSign) 0 [])) (fun t => decide (t.runState = .run)) = true ∧
    steps (withNonce 0 (engine (.nonceWait heldSign) 0 []))
      (fun t => decide (t.runState = .idle) && decide (t.errCode = 0x0B)) = true := by decide +kernel

/-- Clause 2 on NOP, clause 3 on a read and on START. -/
theorem witness_PointsStayOnTheCurve :
    (engine .run 0x01000000 []).build.Legal ∧ PointsOnCurve (engine .run 0x01000000 []) ∧
    steps (engine .run 0x58111000 []) (fun t => decide (t.p[(1 : PReg)] ≠ .affine 7 7)) = true ∧
    pointDestination .nop = none ∧ execs .nop (engine .run 0 []) (fun _ => true) = true ∧
    steps (facing (.read 0x14 .word) (engine .run 0 [])) (fun _ => true) = true ∧
    steps (facing (.write 0x10 .word 1) (engine .idle 0 [])) (fun _ => true) = true :=
  ⟨small_legal, (engine_inv _ _ _ (.inr (.inl rfl))).points, by decide +kernel, rfl, by decide +kernel, by decide +kernel, by decide +kernel⟩

/-- They differ in the invalid B0 and P0; one step is a NOP, one a refused access. -/
theorem witness_InvalidContentsNeverMatter :
    let other (s : State) : State := { s with b := s.b.set 0 99, p := s.p.set 0 (.affine 1 1) }
    let s := engine .run 0 []
    let r := facing (.read 2 .word) s
    SameButInvalid s (other s) ∧ other s ≠ s ∧ SameButInvalid r (other r) ∧ steps s (fun _ => true) = true ∧
      step r = .refused .hostAccessOutsideInterface := by
  have key : ∀ s : State, s.vb[(0 : BReg)] = false → s.vp[(0 : PReg)] = false →
      SameButInvalid s { s with b := s.b.set 0 99, p := s.p.set 0 (.affine 1 1) } := by
    intro s hb hp
    refine ⟨rfl, fun r hr => ?_, fun r hr => ?_⟩
    · have : r ≠ 0 := by rintro rfl; simp_all
      have : (0 : Nat) ≠ r.val := fun h => this (Fin.ext h.symm)
      simp [this]
    · have : r ≠ 0 := by rintro rfl; simp_all
      have : (0 : Nat) ≠ r.val := fun h => this (Fin.ext h.symm)
      simp [this]
  exact ⟨key _ (by decide +kernel) (by decide +kernel), by decide +kernel,
    key _ (by decide +kernel) (by decide +kernel), by decide +kernel, rfl⟩

/-- A read of CONFIG0, another turn, and a refused access. -/
theorem witness_DigitWidthNeverMatters :
    let s := engine .run 0 []
    (steps (facing (.read 0x4 .word) s) (fun t => decide (t.reads = [0x00400100])) = true ∧
      (facing (.read 0x4 .word) s).inputs.head? = some (.read 0x4 .word)) ∧
    (steps s (fun _ => true) = true ∧ s.inputs.head? = none) ∧
    step (facing (.read 0x4 .byte) s) = .refused .hostAccessOutsideInterface :=
  ⟨⟨by decide +kernel, rfl⟩, ⟨by decide +kernel, rfl⟩, rfl⟩

/-- An instruction that completes, one that fails, a SIGN that consumes a nonce and fails, and a fetch past IMEM:
the hypotheses of ErrorsArePrecise, FlagWriters, RegisterFrame and ProgramCounterRule. -/
theorem witness_ErrorsArePrecise :
    (Inv (engine .run 0 []) ∧ (engine .run 0 []).err = false ∧ (Instr.mov 3 0).wellFormed = true ∧
      execs (.mov 3 0) (engine .run 0 []) (fun t => t.err && decide (t.errCode = 0x03)) = true) ∧
    (Inv (withNonce 0 (engine .run 0 [])) ∧ (Instr.sign 3 1 2 true).wellFormed = true ∧
      execs (.sign 3 1 2 true) (withNonce 0 (engine .run 0 [])) (fun t => t.err && decide (t.errCode = 0x0B)) = true) ∧
    (let s := { engine .run 0 [] with pc := 16 };
      EngineMoves s s ∧ s.resetLine = false ∧ s.runState = .run ∧ s.build.imemWords ≤ s.pc.toNat) := by
  refine ⟨⟨engine_inv _ _ _ (.inr (.inl rfl)), ?_⟩, ⟨engine_inv_nonce _ _ _ _ (.inr (.inl rfl)), ?_⟩,
    .inl ⟨rfl, rfl⟩, ?_⟩
  all_goals decide +kernel

/-- A ZN instruction, CMP, a T instruction and SIGN complete. -/
theorem witness_FlagWriters :
    znDestination (.sub 3 1 2) = some 3 ∧
    execs (.sub 3 1 2) (engine .run 0 []) (fun t => !t.err && t.flags.n) = true ∧
    znDestination (.cmp 1 2) = none ∧ writesT (.cmp 1 2) = false ∧
    execs (.cmp 1 2) (engine .run 0 []) (fun t => !t.err && t.flags.lt) = true ∧
    execs (.biti 1 1) (engine .run 0 []) (fun t => !t.err && t.flags.t) = true ∧
    execs (.sign 3 1 2 true) (withNonce 3 (engine .run 0 [])) (fun t => !t.err && !t.flags.z) = true := by decide +kernel

/-- SIGN's group ends at B15, and B12 below it is no destination; PMUL's is P0. -/
theorem witness_RegisterFrame :
    (Instr.sign 13 1 2 false).wellFormed = true ∧
    execs (.sign 13 1 2 false) (withNonce 3 (engine .run 0 []))
      (fun t => t.vb[(13 : BReg)] && t.vb[(14 : BReg)] && t.vb[(15 : BReg)] && !t.vb[(12 : BReg)]) = true ∧
    ¬ writesB (.sign 13 1 2 false) 12 ∧ pointDestination (.pmul 0 1 1) ≠ some 1 ∧
    execs (.pmul 0 1 1) (engine .run 0 []) (fun t => t.vp[(0 : PReg)]) = true := by
  refine ⟨by decide, by decide +kernel, ?_, by decide, by decide +kernel⟩
  rintro (h | ⟨a, b, c, lows, h, hr⟩)
  · cases h
  · cases h
    revert hr
    decide

/-- A store of one byte at the last address, one past it, and an instruction that stores nothing. -/
theorem witness_MemoryAndPortFrame :
    (engine .run 0 []).build.Legal ∧ storesAt (.stbe 1 15 1) = some 15 ∧
    execs (.stbe 1 15 1) (engine .run 0 []) (fun t => decide (t.pc = 16) && decide (t.slen = 1) &&
      decide (t.dmem = [(15, 2)])) = true ∧
    execs (.stbe 1 15 2) (engine .run 0 []) (fun t => decide (t.errCode = 0x04) && decide (t.dmem = [])) = true ∧
    storesAt (.ldbe 1 15 0) = none ∧ execs (.ldbe 1 15 0) (engine .run 0 []) (fun t => decide (t.dmem = [])) = true :=
  ⟨small_legal, rfl, by decide +kernel, by decide +kernel, rfl, by decide +kernel⟩

/-- Each case of the rule, and a PC that wraps. -/
theorem witness_ProgramCounterRule :
    let s := engine .run 0 []
    let last := { s with pc := 0xFFFF }
    execs (.mov 3 0) s (fun t => t.err && decide (t.pc = 15)) = true ∧
    execs (.jmp 0xFFFF) s (fun t => !t.err && decide (t.pc = 0xFFFF)) = true ∧
    execs (.br .ge 3) s (fun t => !t.err && decide (t.pc = 3)) = true ∧
    execs (.br .lt 3) s (fun t => !t.err && decide (t.pc = 16)) = true ∧
    execs .halt s (fun t => !t.err && decide (t.pc = 15)) = true ∧
    execs (.sign 3 1 2 true) s (fun t => !t.err && decide (t.pc = 15)) = true ∧
    execs (.sign 3 1 2 true) (withNonce 3 s) (fun t => !t.err && decide (t.pc = 16)) = true ∧
    execs .nop last (fun t => !t.err && decide (t.pc = 0)) = true := by decide +kernel

/-- A narrow read and a misaligned write are outside the interface; a word read and no turn are not. -/
theorem witness_EveryStepEnds :
    AccessOutsideInterface (facing (.read 0x4 .halfword) State.reset) ∧
    AccessOutsideInterface (facingWrite 0x3FFFF 0 State.reset) ∧
    ¬ AccessOutsideInterface (facing (.read 0x4 .word) State.reset) ∧ ¬ AccessOutsideInterface State.reset := by
  refine ⟨⟨_, _, _, .inl rfl, by decide⟩, ⟨_, _, _, .inr ⟨_, rfl⟩, by decide⟩, ?_, ?_⟩
  all_goals
    rintro ⟨offset, width, rest, h | ⟨u, h⟩, hn⟩ <;> cases h
    try exact hn (by decide)

/-- In the middle of a run; the offsets 0 and the last word's. -/
theorem witness_ResetFromAnyState :
    steps (facing .assertReset (engine .run 0 [])) (fun t => t.resetLine && decide (t.imem = [(15, 0)]) &&
      !t.vb[(1 : BReg)]) = true ∧ (0x3FFFC : BitVec 18).toNat % 4 = 0 := by decide +kernel

/-! ## Witnesses: the host. The reset line is released, the engine BUSY or not. -/

/-- IDLE, RUN and NONCE_WAIT, and words with each of the two action bits. -/
theorem witness_StartAndAbort :
    (engine .idle 0 []).resetLine = false ∧ (engine .run 0 []).resetLine = false ∧
    (engine .idle 0 []).busy = false ∧ (engine .run 0 []).busy = true ∧
    (engine (.nonceWait heldSign) 0 []).busy = true ∧ (1 : Word).getLsbD 0 = true ∧ (1 : Word).getLsbD 1 = false ∧
    (2 : Word).getLsbD 0 = false ∧ (2 : Word).getLsbD 1 = true ∧ (3 : Word).getLsbD 0 = true ∧
    (3 : Word).getLsbD 1 = true ∧ (0xFFFFFFFC : Word).getLsbD 0 = false ∧ (0xFFFFFFFC : Word).getLsbD 1 = false := by
  decide

/-- Also for StatusAndEnables, IdentityRegisters and ResultRegisters. -/
theorem witness_ResultRegisters :
    (engine .idle 0 []).resetLine = false ∧ (engine .idle 0 []).busy = false ∧ (engine .idle 0 []).build.Legal :=
  ⟨rfl, rfl, small_legal⟩

/-- Both values of NONCE_VALID, and of the bit that sets it. -/
theorem witness_NoncePort :
    (engine .run 0 []).resetLine = false ∧ (engine .run 0 []).nonceValid = false ∧
    (withNonce 3 (engine .run 0 [])).nonceValid = true ∧ (1 : Word).getLsbD 0 = true ∧
    (2 : Word).getLsbD 0 = false := by decide

/-- A word with its second byte written only. -/
theorem witness_DmemWindow_partial :
    let s := { engine .idle 0 [] with dmem := [(13, 0x22)] }
    s.resetLine = false ∧ 4 * 3 < s.build.dmemBytes ∧ s.busy = false ∧
      Cells.read s.dmem (4 * 3 + 1) = some 0x22 ∧ Cells.read s.dmem (4 * 3) = none := by
  decide

/-- The last word of the small build's DMEM, all its bytes written. -/
theorem witness_DmemWindow :
    let s := { engine .idle 0 [] with dmem := [(12, 0x11), (13, 0x22), (14, 0x33), (15, 0x44)] }
    s.resetLine = false ∧ 4 * 3 < s.build.dmemBytes ∧ 4 * 3 < 0x1000 ∧ (0x800C : BitVec 18) = BitVec.ofNat 18 (0x8000 + 4 * 3) ∧
      s.busy = false ∧ Holds s.dmem (4 * 3) [(0x44332211 : Word).extractLsb' 0 8, (0x44332211 : Word).extractLsb' 8 8,
        (0x44332211 : Word).extractLsb' 16 8, (0x44332211 : Word).extractLsb' 24 8] ∧
      (engine .run 0 []).busy = true :=
  ⟨rfl, by decide, by decide, by decide, rfl, holds_of (by decide), rfl⟩

/-- The last word of the small build's IMEM, and of the largest build's. -/
theorem witness_ImemWindow :
    let s := engine .idle 7 []
    s.resetLine = false ∧ 15 < s.build.imemWords ∧ s.busy = false ∧ Cells.read s.imem 15 = some 7 ∧
      (0x1003C : BitVec 18) = BitVec.ofNat 18 (0x10000 + 4 * 15) ∧
      (0x1FFFC : BitVec 18) = BitVec.ofNat 18 (0x10000 + 4 * 0x3FFF) := by
  decide

/-- Offsets at the ends of the clauses; on the small build the windows end at 0x8010 and 0x10040. -/
theorem witness_UnmappedOffsets :
    (engine .idle 0 []).resetLine = false ∧ (engine .idle 0 []).build.dmemBytes = 16 ∧
    (engine .idle 0 []).build.imemWords = 16 ∧
    (0x0C : BitVec 18).toNat % 4 = 0 ∧ (0x64 : BitVec 18).toNat % 4 = 0 ∧ (0x7FFC : BitVec 18).toNat % 4 = 0 ∧
    (0x9000 : BitVec 18).toNat % 4 = 0 ∧ (0xFFFC : BitVec 18).toNat % 4 = 0 ∧ (0x3FFFC : BitVec 18).toNat % 4 = 0 ∧
    (0x8010 : BitVec 18).toNat - 0x8000 = 16 ∧ (0x8FFC : BitVec 18).toNat % 4 = 0 ∧
    ((0x10040 : BitVec 18).toNat - 0x10000) / 4 = 16 ∧ (0x1FFFC : BitVec 18).toNat % 4 = 0 := by
  refine ⟨rfl, rfl, rfl, ?_⟩
  simp

end Sys2Proof.Tests
end

section
/-! SUPPORT. O48, 00_scope.md R11: only the host's read of CONFIG0 sees DIGIT_BITS. Every operation commutes with
the change of the digit width, so `exec`, the host's writes and every other turn do. -/

namespace Sys2Proof.Machine

section DigitBits
variable {α : Type} {k : Nat} {s : State} {a : BReg} {addr : BitVec 12} {len : BitVec 8}

/-- An answer with another digit width in its next state. -/
def answerWithDigitBits (k : Nat) : Answer → Answer
  | .next t => .next (withDigitBits k t)
  | .fault r => .fault r
  | .refused r => .refused r

@[simp] theorem withDigitBits_curve : (withDigitBits k s).build.curve = s.build.curve := rfl
@[simp] theorem withDigitBits_runState : (withDigitBits k s).runState = s.runState := rfl
@[simp] theorem withDigitBits_resetLine : (withDigitBits k s).resetLine = s.resetLine := rfl
@[simp] theorem withDigitBits_inputs : (withDigitBits k s).inputs = s.inputs := rfl
@[simp] theorem withDigitBits_hostRegion (offset : Nat) :
    (withDigitBits k s).hostRegion offset = s.hostRegion offset := rfl

/-! ## The shared operations -/

/-- A choice that does not see the width commutes with the change where both branches do. -/
theorem ite_commutes {β γ : Type} (f : β → γ) {c : Prop} [Decidable c] {x y : β} {x' y' : γ}
    (hx : x' = f x) (hy : y' = f y) : (if c then x' else y') = f (if c then x else y) := by
  rw [hx, hy, apply_ite f]

/-- A read or check answers the same for every width, so only what follows it has to commute. -/
theorem bind_withDigitBits {r : Result α} {f f' : α → Result State}
    (h : ∀ x, f' x = withDigitBits k <$> f x) : (r >>= f') = withDigitBits k <$> (r >>= f) := by
  cases r with
  | error e => rfl
  | ok x => exact h x

theorem finish_withDigitBits {r r' : Result State} (h : r' = withDigitBits k <$> r) :
    finish (withDigitBits k s) r' = answerWithDigitBits k (finish s r) := by
  subst h
  cases r <;> rfl

theorem writeB_withDigitBits (v : Int) :
    (withDigitBits k s).writeB a v = withDigitBits k <$> s.writeB a v :=
  ite_commutes (c := s.fits v = true) (withDigitBits k <$> · : Result State → Result State) rfl rfl

theorem memWrite_withDigitBits (m : Nat) (bytes : List Byte) :
    (withDigitBits k s).memWrite m bytes = withDigitBits k <$> s.memWrite m bytes :=
  ite_commutes (c := s.inDmem m bytes.length = true) (withDigitBits k <$> · : Result State → Result State)
    rfl rfl

/-- A writing operation that commutes with the change of width, and then an update that does. -/
theorem map_bind_withDigitBits {r r' : Result State} {f f' : State → Result State}
    (hr : r' = withDigitBits k <$> r) (hf : ∀ t, f' (withDigitBits k t) = withDigitBits k <$> f t) :
    (r' >>= f') = withDigitBits k <$> (r >>= f) := by
  subst hr
  cases r with
  | error e => rfl
  | ok t => exact hf t

theorem result_withDigitBits (v : Int) :
    (withDigitBits k s).result a v = withDigitBits k <$> s.result a v :=
  map_bind_withDigitBits (writeB_withDigitBits v) fun _ => rfl

theorem writeSignature_withDigitBits (r sg v : Int) :
    (withDigitBits k s).writeSignature a r sg v = withDigitBits k <$> s.writeSignature a r sg v :=
  map_bind_withDigitBits (writeB_withDigitBits r) fun _ =>
    map_bind_withDigitBits (writeB_withDigitBits sg) fun _ =>
      map_bind_withDigitBits (writeB_withDigitBits v) fun _ => rfl

/-- A load whose rest commutes with the change of width, given the bytes read. -/
theorem memReadThen_withDigitBits {m n : Nat} {rest rest' : List Byte → State → Result State}
    (h : ∀ bytes t, rest' bytes (withDigitBits k t) = withDigitBits k <$> rest bytes t) :
    memReadThen m n (withDigitBits k s) rest' = answerWithDigitBits k (memReadThen m n s rest) :=
  ite_commutes (c := s.inDmem m n = true) (answerWithDigitBits k)
    (finish_withDigitBits (s := s.useDraws n) (h (s.dmemBytes m n) (s.useDraws n))) rfl

theorem loadString_withDigitBits (r : Radix) :
    loadString r a addr len (withDigitBits k s) = answerWithDigitBits k (loadString r a addr len s) :=
  memReadThen_withDigitBits fun bytes _ => by
    cases parse? r bytes with
    | none => rfl
    | some v => exact result_withDigitBits v

theorem storeInteger_withDigitBits (form : Nat → Nat → List Byte) :
    storeInteger form a addr len (withDigitBits k s) =
      answerWithDigitBits k (storeInteger form a addr len s) :=
  finish_withDigitBits <| bind_withDigitBits fun _ => bind_withDigitBits fun _ =>
    bind_withDigitBits fun _ => bind_withDigitBits fun _ =>
      map_bind_withDigitBits (memWrite_withDigitBits _ _) fun _ => rfl

theorem storeString_withDigitBits (r : Radix) :
    storeString r a addr len (withDigitBits k s) = answerWithDigitBits k (storeString r a addr len s) :=
  finish_withDigitBits <| bind_withDigitBits fun _ => bind_withDigitBits fun _ =>
    bind_withDigitBits fun _ => map_bind_withDigitBits (memWrite_withDigitBits _ _) fun _ => rfl

theorem signWith_withDigitBits (held : SignOperands) (d z : Int) (n : Nat) :
    signWith held d z n (withDigitBits k s) = answerWithDigitBits k (signWith held d z n s) := by
  unfold signWith
  refine ite_commutes _ ?_ rfl
  rw [withDigitBits_curve]
  cases signAttempt s.build.curve d z n held.lows with
  | retry => rfl
  | signed r sg v => exact finish_withDigitBits (writeSignature_withDigitBits r sg v)

theorem execSign_withDigitBits (a b c : BReg) (lows : Bool) :
    execSign a b c lows (withDigitBits k s) = answerWithDigitBits k (execSign a b c lows s) := by
  have hops : signOperands a b c (withDigitBits k s) = signOperands a b c s := rfl
  unfold execSign
  rw [hops]
  cases signOperands a b c s with
  | error e => rfl
  | ok dz =>
    exact ite_commutes (c := s.nonceValid = true) _
      (signWith_withDigitBits (s := s.consumeNonce) _ dz.1 dz.2 s.nonce) rfl

/-! ## The instructions -/

/-- No instruction sees the digit width. -/
theorem exec_withDigitBits (i : Instr) :
    exec i (withDigitBits k s) = answerWithDigitBits k (exec i s) := by
  cases i with
  | nop | halt | jmp _ | pinf _ | pgen _ => rfl
  | br cond target =>
    exact congrArg Host.Outcome.next (ite_commutes (c := s.flags.holds cond = true) (withDigitBits k) rfl rfl)
  | ldi _ _ | ldc _ _ => exact finish_withDigitBits (result_withDigitBits _)
  | mov _ _ | add _ _ _ | sub _ _ _ | mul _ _ _ =>
    exact finish_withDigitBits <| bind_withDigitBits fun _ => result_withDigitBits _
  | div _ _ _ | rem _ _ _ | mod _ _ _ | shl _ _ _ | shr _ _ _ | bitlen _ _ | px _ _ | py _ _ =>
    exact finish_withDigitBits <| bind_withDigitBits fun _ => bind_withDigitBits fun _ =>
      result_withDigitBits _
  | modinv _ _ _ =>
    exact finish_withDigitBits <| bind_withDigitBits fun _ => bind_withDigitBits fun _ =>
      bind_withDigitBits fun _ => result_withDigitBits _
  | modexp _ _ _ _ =>
    exact finish_withDigitBits <| bind_withDigitBits fun _ => bind_withDigitBits fun _ =>
      bind_withDigitBits fun _ => bind_withDigitBits fun _ => result_withDigitBits _
  | cmp _ _ | pisinf _ | pdbl _ _ => exact finish_withDigitBits <| bind_withDigitBits fun _ => rfl
  | biti _ _ | pmk _ _ _ | padd _ _ _ =>
    exact finish_withDigitBits <| bind_withDigitBits fun _ => bind_withDigitBits fun _ => rfl
  | bit _ _ | pmul _ _ _ =>
    exact finish_withDigitBits <| bind_withDigitBits fun _ => bind_withDigitBits fun _ =>
      bind_withDigitBits fun _ => rfl
  | verify _ _ _ =>
    exact finish_withDigitBits <| bind_withDigitBits fun _ => bind_withDigitBits fun _ =>
      bind_withDigitBits fun _ => bind_withDigitBits fun _ => bind_withDigitBits fun _ => rfl
  | recover _ _ _ =>
    exact finish_withDigitBits <| bind_withDigitBits fun _ => bind_withDigitBits fun _ =>
      bind_withDigitBits fun _ => bind_withDigitBits fun _ => bind_withDigitBits fun _ =>
        bind_withDigitBits fun _ => bind_withDigitBits fun _ => rfl
  | ldbe _ _ _ | ldle _ _ _ | digz _ _ _ =>
    exact memReadThen_withDigitBits fun _ _ => result_withDigitBits _
  | ldhex _ _ _ | lddec _ _ _ => exact loadString_withDigitBits _
  | stbe _ _ _ | stle _ _ _ => exact storeInteger_withDigitBits _
  | sthex _ _ _ | stdec _ _ _ => exact storeString_withDigitBits _
  | sign a b c lows => exact execSign_withDigitBits a b c lows

/-! ## The engine -/

theorem fetch_withDigitBits_of_some {w : Word} {t : State} (h : s.fetch = some (w, t)) :
    (withDigitBits k s).fetch = some (w, withDigitBits k t) := by
  obtain ⟨hpc, ⟨hw, rfl⟩ | ⟨hw, rfl, rfl⟩⟩ := State.fetch_eq_some.1 h
  · exact State.fetch_eq_some.2 ⟨hpc, .inl ⟨hw, rfl⟩⟩
  · exact State.fetch_eq_some.2 ⟨hpc, .inr ⟨hw, rfl, rfl⟩⟩

theorem runStep_withDigitBits : runStep (withDigitBits k s) = answerWithDigitBits k (runStep s) := by
  unfold runStep
  cases h : s.fetch with
  | none =>
    have h' : (withDigitBits k s).fetch = none := State.fetch_eq_none.2 (State.fetch_eq_none (s := s).1 h)
    rw [h']
    rfl
  | some wt =>
    obtain ⟨w, t⟩ := wt
    rw [fetch_withDigitBits_of_some h]
    cases hd : decode w with
    | error _ =>
      simp only [hd]
      rfl
    | ok i =>
      simp only [hd]
      exact exec_withDigitBits i

theorem engineStep_withDigitBits :
    engineStep (withDigitBits k s) = answerWithDigitBits k (engineStep s) := by
  unfold engineStep
  refine ite_commutes _ rfl ?_
  rw [withDigitBits_runState]
  cases s.runState with
  | idle => rfl
  | run => exact runStep_withDigitBits
  | nonceWait held =>
    exact ite_commutes _ (exec_withDigitBits (s := { s with runState := .run }) _) rfl

/-! ## The host -/

theorem writeCtrl_withDigitBits (u : Word) :
    (withDigitBits k s).writeCtrl u = withDigitBits k (s.writeCtrl u) :=
  ite_commutes (c := s.busy = true) _
    (ite_commutes _ (ite_commutes (c := s.busy = true) _ rfl rfl) (ite_commutes _ rfl rfl))
    (ite_commutes _ rfl rfl)

theorem writeNonceWord_withDigitBits (i : Fin 8) (u : Word) :
    (withDigitBits k s).writeNonceWord i u = withDigitBits k (s.writeNonceWord i u) :=
  ite_commutes (c := s.nonceValid = true) _ rfl rfl

theorem csrWrite_withDigitBits (offset : Nat) (u : Word) :
    (withDigitBits k s).csrWrite offset u = withDigitBits k (s.csrWrite offset u) := by
  unfold State.csrWrite
  split
  case h_1 => exact writeCtrl_withDigitBits u
  case h_2 | h_3 | h_4 | h_13 | h_14 => rfl
  all_goals exact writeNonceWord_withDigitBits _ u

theorem hostWrite_withDigitBits (offset : Nat) (u : Word) :
    (withDigitBits k s).hostWrite offset u = withDigitBits k (s.hostWrite offset u) := by
  unfold State.hostWrite
  refine ite_commutes _ rfl ?_
  rw [withDigitBits_hostRegion]
  cases s.hostRegion offset with
  | csr o => exact csrWrite_withDigitBits o u
  | dmem _ | imem _ => exact ite_commutes (c := s.busy = true) _ rfl rfl
  | unmapped => rfl

/-- CONFIG0 is the one CSR that shows the digit width (10_state.md R33). -/
theorem csrRead_withDigitBits {offset : Nat} (h : offset ≠ 0x4) :
    (withDigitBits k s).csrRead offset = s.csrRead offset := by
  unfold State.csrRead
  split
  case h_2 => exact absurd rfl h
  all_goals rfl

theorem hostRegion_eq_csr {offset o : Nat} (h : s.hostRegion offset = .csr o) : o = offset := by
  unfold State.hostRegion at h
  split_ifs at h
  exact (HostRegion.csr.inj h).symm

theorem hostReadValue_withDigitBits {offset : Nat} (h : offset ≠ 0x4) :
    (withDigitBits k s).hostReadValue offset = s.hostReadValue offset := by
  unfold State.hostReadValue
  refine ite_commutes id rfl ?_
  rw [withDigitBits_hostRegion]
  cases hr : s.hostRegion offset with
  | csr o => exact csrRead_withDigitBits (hostRegion_eq_csr hr ▸ h)
  | dmem _ | imem _ | unmapped => rfl

theorem hostRead_withDigitBits {offset : Nat} (h : offset ≠ 0x4) :
    (withDigitBits k s).hostRead offset = withDigitBits k (s.hostRead offset) := by
  unfold State.hostRead
  rw [hostReadValue_withDigitBits h]
  rfl

/-- DIGIT_BITS fills CONFIG0[23:16] and no other bit (10_state.md R33). -/
theorem config0_withDigitBits :
    (withDigitBits k s).config0 &&& 0xFF00FFFF = s.config0 &&& 0xFF00FFFF := by
  have masked (d : BitVec 8) (m : BitVec 16) :
      (0#8 ++ d ++ m) &&& (0xFF#8 ++ 0x00#8 ++ 0xFFFF#16) = 0#8 ++ 0#8 ++ m := by
    rw [BitVec.and_append, BitVec.and_append, BitVec.zero_and, BitVec.and_zero,
      show 0xFFFF#16 = BitVec.allOnes 16 from rfl, BitVec.and_allOnes]
  exact (masked _ _).trans (masked _ _).symm

theorem hostReadValue_config0_withDigitBits :
    (withDigitBits k s).hostReadValue 0x4 &&& 0xFF00FFFF = s.hostReadValue 0x4 &&& 0xFF00FFFF := by
  have value (t : State) : t.hostReadValue 0x4 = if t.resetLine then 0 else t.config0 := rfl
  rw [value, value, withDigitBits_resetLine]
  split
  · rfl
  · exact config0_withDigitBits

/-! ## The step -/

/-- Every turn but a host read of CONFIG0 commutes with the change of the digit width. -/
theorem takeTurn_withDigitBits {turn : Turn} (h : ∀ w, turn ≠ .read 0x4 w) :
    takeTurn turn (withDigitBits k s) = answerWithDigitBits k (takeTurn turn s) := by
  cases turn with
  | engine => exact engineStep_withDigitBits
  | read offset width =>
    have ho : offset.toNat ≠ 0x4 := fun ho => h width (by rw [BitVec.eq_of_toNat_eq (y := 0x4) ho])
    exact ite_commutes _ (congrArg Host.Outcome.next (hostRead_withDigitBits ho)) rfl
  | write offset width u => exact ite_commutes _ (congrArg Host.Outcome.next (hostWrite_withDigitBits _ u)) rfl
  | assertReset | releaseReset => rfl

theorem step_withDigitBits (h : ∀ w, s.inputs.head? ≠ some (.read 0x4 w)) :
    step (withDigitBits k s) = answerWithDigitBits k (step s) := by
  unfold step
  simp only [withDigitBits_inputs]
  split
  · exact engineStep_withDigitBits
  · rename_i turn rest hin
    exact takeTurn_withDigitBits (s := { s with inputs := rest }) fun w hw => h w (by rw [hin, hw]; rfl)

/-- All that a host read of CONFIG0 does (20_memory.md R52). -/
theorem step_config0 {w : AccessWidth} {rest : List Turn} (h : s.inputs = .read 0x4 w :: rest) :
    step s = if w = .word then .next (State.hostRead 0x4 { s with inputs := rest })
      else .refused .hostAccessOutsideInterface := by
  unfold step
  rw [h]
  cases w <;> rfl

end DigitBits

/-- Settles O48: every turn commutes with the change of width but the read of CONFIG0, and the value that one
records differs in CONFIG0[23:16] only. -/
theorem digitWidthNeverMatters : Obligations.DigitWidthNeverMatters := by
  unfold Obligations.DigitWidthNeverMatters
  intro s k
  by_cases hr : ∃ w, s.inputs.head? = some (.read 0x4 w)
  · obtain ⟨w, hw⟩ := hr
    obtain ⟨rest, hin⟩ := List.head?_eq_some_iff.1 hw
    rw [step_config0 hin, step_config0 (s := withDigitBits k s) hin]
    split
    · refine ⟨fun _ h => (by cases h), fun t h => ⟨fun hne => absurd hw (hne w), fun _ _ => ?_⟩⟩
      obtain rfl := Host.Outcome.next.inj h
      exact ⟨_, _, rfl, hostReadValue_config0_withDigitBits.symm, rfl⟩
    · exact ⟨fun _ h => h, fun _ h => (by cases h)⟩
  · have hr : ∀ w, s.inputs.head? ≠ some (.read 0x4 w) := fun w hw => hr ⟨w, hw⟩
    rw [step_withDigitBits hr]
    exact ⟨fun r h => by rw [h]; rfl, fun t h => ⟨fun _ => by rw [h]; rfl, fun w hw => absurd hw (hr w)⟩⟩

end Sys2Proof.Machine
end

section
/-! SUPPORT. O40, 10_state.md R22 to R26: what each effect of an instruction leaves of the two register files. -/

namespace Sys2Proof.Machine

section RegisterFiles
variable {i : Instr} {s t : State}

/-! ## One write -/

theorem setB_keeps_other {a r : BReg} (v : Int) (h : r ≠ a) :
    (s.setB a v).b[r] = s.b[r] ∧ (s.setB a v).vb[r] = s.vb[r] := by
  have hne : a.val ≠ r.val := fun hv => h (Fin.ext hv.symm)
  exact ⟨Vector.getElem_set_ne a.isLt r.isLt hne, Vector.getElem_set_ne a.isLt r.isLt hne⟩

theorem setB_keeps_valid {a r : BReg} (v : Int) (h : s.vb[r] = true) : (s.setB a v).vb[r] = true := by
  by_cases hr : r = a
  · subst hr
    exact Vector.getElem_set_self r.isLt
  · rw [(setB_keeps_other v hr).2, h]

theorem setP_keeps_other {a r : PReg} (pt : Point) (h : r ≠ a) :
    (s.setP a pt).p[r] = s.p[r] ∧ (s.setP a pt).vp[r] = s.vp[r] := by
  have hne : a.val ≠ r.val := fun hv => h (Fin.ext hv.symm)
  exact ⟨Vector.getElem_set_ne a.isLt r.isLt hne, Vector.getElem_set_ne a.isLt r.isLt hne⟩

theorem setP_keeps_valid {a r : PReg} (pt : Point) (h : s.vp[r] = true) : (s.setP a pt).vp[r] = true := by
  by_cases hr : r = a
  · subst hr
    exact Vector.getElem_set_self r.isLt
  · rw [(setP_keeps_other pt hr).2, h]

/-! ## SIGN's group -/

/-- A group that ends at B15 does not wrap (30_encoding.md R73). -/
theorem groupReg_val {a : BReg} {n j : Nat} (hg : groupFits a n = true) (hj : j < n) :
    (groupReg a j).val = a.val + j := by
  have hn : a.val + n ≤ 16 := of_decide_eq_true hg
  exact Nat.mod_eq_of_lt (by omega)

theorem ne_groupReg_of_not_writesB {a b c r : BReg} {lows : Bool} {j : Nat}
    (hr : ¬ writesB (.sign a b c lows) r) (hg : groupFits a 3 = true) (hj : j < 3) : r ≠ groupReg a j := by
  rintro rfl
  have hv := groupReg_val hg hj
  exact hr (.inr ⟨a, b, c, lows, rfl, by omega⟩)

/-! ## Every effect -/

theorem Effect.keeps_other_bigInt (h : Effect i s t) {r : BReg} (hr : ¬ writesB i r) :
    t.b[r] = s.b[r] ∧ t.vb[r] = s.vb[r] := by
  cases h with
  | result a v k hi _ =>
    exact setB_keeps_other (s := s.useDraws k) v fun hra => hr (.inl (hra ▸ hi))
  | signed a b c lows x y v hi _ hg _ _ _ =>
    subst hi
    have hne {j : Nat} (hj : j < 3) : r ≠ groupReg a j := ne_groupReg_of_not_writesB hr hg hj
    obtain ⟨b₀, v₀⟩ := setB_keeps_other (s := s.consumeNonce) x (hne (j := 0) (by decide))
    obtain ⟨b₁, v₁⟩ := setB_keeps_other (s := s.consumeNonce.setB (groupReg a 0) x) y (hne (j := 1) (by decide))
    obtain ⟨b₂, v₂⟩ := setB_keeps_other
      (s := (s.consumeNonce.setB (groupReg a 0) x).setB (groupReg a 1) y) v (hne (j := 2) (by decide))
    exact ⟨b₂.trans (b₁.trans b₀), v₂.trans (v₁.trans v₀)⟩
  | _ => exact ⟨rfl, rfl⟩

theorem Effect.keeps_other_point (h : Effect i s t) {r : PReg} (hr : pointDestination i ≠ some r) :
    t.p[r] = s.p[r] ∧ t.vp[r] = s.vp[r] := by
  cases h with
  | point a pt hi => exact setP_keeps_other pt fun hra => hr (hra ▸ hi)
  | _ => exact ⟨rfl, rfl⟩

theorem Effect.keeps_valid_bigInt (h : Effect i s t) {r : BReg} (hr : s.vb[r] = true) : t.vb[r] = true := by
  cases h with
  | result a v k _ _ => exact setB_keeps_valid (s := s.useDraws k) v hr
  | signed a _ _ _ x y v _ _ _ _ _ _ =>
    exact setB_keeps_valid v (setB_keeps_valid y (setB_keeps_valid (s := s.consumeNonce) x hr))
  | _ => exact hr

theorem Effect.keeps_valid_point (h : Effect i s t) {r : PReg} (hr : s.vp[r] = true) : t.vp[r] = true := by
  cases h with
  | point a pt _ => exact setP_keeps_valid pt hr
  | _ => exact hr

end RegisterFiles

/-- Settles O40, by the effects an instruction can have. -/
theorem registerFrame : Obligations.RegisterFrame := by
  unfold Obligations.RegisterFrame
  intro i s t _ h
  have he := exec_effect h
  exact ⟨fun _ => he.keeps_other_bigInt, fun _ => he.keeps_other_point, fun _ => he.keeps_valid_bigInt,
    fun _ => he.keeps_valid_point⟩

end Sys2Proof.Machine
end

section
/-! SUPPORT. O46, 44_ec_point.md R107 to R110: on a legal curve the point operations give INF or a point on the
curve. The line through two points of the curve, or its tangent at one, meets the curve once more (Vieta), so no
premise on singular points is needed. -/

namespace Sys2Proof.Config.Curve

open Sys2Proof.Machine

/-! ## The third point of a line -/

/-- A line of slope lam through (x₁, y₁) and (x₂, y₂), or tangent at (x₁, y₁) where the two are equal, meets the
cubic again at x₃ = lam² − x₁ − x₂; the reflected point is on the curve. -/
theorem third_point_on_cubic {R : Type} [CommRing R] {a b lam x₁ y₁ x₂ y₂ x₃ : R}
    (h₁ : y₁ ^ 2 = x₁ ^ 3 + a * x₁ + b) (hline : lam * (x₂ - x₁) = y₂ - y₁)
    (hslope : lam * (y₁ + y₂) = x₁ ^ 2 + x₁ * x₂ + x₂ ^ 2 + a) (h₃ : x₃ = lam ^ 2 - x₁ - x₂) :
    (lam * (x₁ - x₃) - y₁) ^ 2 = x₃ ^ 3 + a * x₃ + b := by
  obtain rfl : lam * (x₂ - x₁) + y₁ = y₂ := by rw [hline]; ring
  subst h₃
  linear_combination h₁ + (lam ^ 2 - 2 * x₁ - x₂) * hslope

/-- The slope through two points of a cubic with distinct abscissas also meets the tangent's equation. -/
theorem chord_slope {F : Type} [Field F] {a b lam x₁ y₁ x₂ y₂ : F} (hx : x₁ ≠ x₂)
    (h₁ : y₁ ^ 2 = x₁ ^ 3 + a * x₁ + b) (h₂ : y₂ ^ 2 = x₂ ^ 3 + a * x₂ + b)
    (hline : lam * (x₂ - x₁) = y₂ - y₁) :
    lam * (y₁ + y₂) = x₁ ^ 2 + x₁ * x₂ + x₂ ^ 2 + a := by
  refine mul_left_cancel₀ (sub_ne_zero.2 hx.symm) ?_
  linear_combination (y₁ + y₂) * hline + h₂ - h₁

/-! ## The field of a legal curve -/

section Legal
variable {c : Config.Curve} (hc : c.Legal)
include hc

theorem Legal.p_pos : 0 < c.p := by
  have := hc.p_prime.pos
  omega

theorem Legal.n_pos : 0 < c.n := by
  have := hc.n_prime.pos
  omega

theorem Legal.natCast_p : (c.p.toNat : Int) = c.p := Int.toNat_of_nonneg hc.p_pos.le

/-- Reduction mod p is the cast to the field. -/
theorem Legal.intCast_emod (x : Int) : ((x % c.p : Int) : ZMod c.p.toNat) = x := by
  have := ZMod.intCast_mod x c.p.toNat
  rwa [hc.natCast_p] at this

theorem Legal.emod_eq_zero_iff (x : Int) : x % c.p = 0 ↔ (x : ZMod c.p.toNat) = 0 := by
  rw [ZMod.intCast_zmod_eq_zero_iff_dvd, hc.natCast_p, Int.dvd_iff_emod_eq_zero]

/-- Integers in [0, p) with one image in the field are equal. -/
theorem Legal.eq_of_intCast_eq {x y : Int} (hx : 0 ≤ x ∧ x < c.p) (hy : 0 ≤ y ∧ y < c.p)
    (h : (x : ZMod c.p.toNat) = y) : x = y := by
  rw [ZMod.intCast_eq_intCast_iff', hc.natCast_p] at h
  rwa [Int.emod_eq_of_lt hx.1 hx.2, Int.emod_eq_of_lt hy.1 hy.2] at h

/-- p is odd, so 2y has an inverse for y in (0, p). -/
theorem Legal.two_mul_ne_zero {y : Int} (hy : 0 ≤ y ∧ y < c.p) (hy0 : y ≠ 0) :
    ((2 * y : Int) : ZMod c.p.toNat) ≠ 0 := by
  have : Fact c.p.toNat.Prime := ⟨hc.p_prime⟩
  have hp := hc.p_pos
  have hp4 := hc.p_mod_four
  have two_ne : ((2 : Int) : ZMod c.p.toNat) ≠ 0 := fun h0 => by
    have := hc.eq_of_intCast_eq (x := 2) (y := 0) (by omega) (by omega) (by simpa using h0)
    omega
  rw [Int.cast_mul]
  exact mul_ne_zero two_ne fun h0 => hy0 (hc.eq_of_intCast_eq hy ⟨le_rfl, hp⟩ (by simpa using h0))

/-- Mod p, `modInv` inverts everything but 0 (00_scope.md R17). -/
theorem Legal.mul_modInv {x : Int} (hx : (x : ZMod c.p.toNat) ≠ 0) :
    (x : ZMod c.p.toNat) * modInv x c.p = 1 := by
  have hne : x % c.p ≠ 0 := fun h => hx ((hc.emod_eq_zero_iff x).1 h)
  have hlo := Int.emod_nonneg x hc.p_pos.ne'
  have hhi := Int.emod_lt_of_pos x hc.p_pos
  have hg : Nat.gcd (x % c.p).toNat c.p.toNat = 1 :=
    (Nat.coprime_of_lt_prime (by omega) (by omega) hc.p_prime).symm
  obtain ⟨-, -, hinv⟩ := modInv_spec hc.p_pos hg
  have := congrArg (Int.cast (R := ZMod c.p.toNat)) hinv
  rwa [hc.intCast_emod, hc.intCast_emod, Int.cast_mul, Int.cast_one] at this

/-- onCurve, as the equation in the field (R107). -/
theorem Legal.onCurve_iff {x y : Int} :
    onCurve c x y = true ↔ (0 ≤ x ∧ x < c.p) ∧ (0 ≤ y ∧ y < c.p) ∧
      (y : ZMod c.p.toNat) ^ 2 = (x : ZMod c.p.toNat) ^ 3 + c.a * x + c.b := by
  have heq : (y * y - Curve.rhs c x) % c.p = 0 ↔
      (y : ZMod c.p.toNat) ^ 2 = (x : ZMod c.p.toNat) ^ 3 + c.a * x + c.b := by
    rw [hc.emod_eq_zero_iff, ← sub_eq_zero (a := (y : ZMod c.p.toNat) ^ 2)]
    simp only [Curve.rhs]
    push_cast
    ring_nf
  simp only [onCurve, decide_eq_true_eq, heq]
  tauto

/-! ## The group operations -/

/-- The reflected third point is on the curve, given the slope by its equations in the field. -/
theorem Legal.chordPoint_member {lam x₁ y₁ x₂ y₂ : Int}
    (h₁ : (y₁ : ZMod c.p.toNat) ^ 2 = (x₁ : ZMod c.p.toNat) ^ 3 + c.a * x₁ + c.b)
    (hline : (lam : ZMod c.p.toNat) * (x₂ - x₁) = y₂ - y₁)
    (hslope : (lam : ZMod c.p.toNat) * (y₁ + y₂) = x₁ ^ 2 + x₁ * x₂ + x₂ ^ 2 + c.a) :
    (chordPoint c lam x₁ y₁ x₂).member c = true := by
  have range (x : Int) : 0 ≤ x % c.p ∧ x % c.p < c.p :=
    ⟨Int.emod_nonneg x hc.p_pos.ne', Int.emod_lt_of_pos x hc.p_pos⟩
  refine hc.onCurve_iff.2 ⟨range _, range _, ?_⟩
  have h₃ : (((lam * lam - x₁ - x₂) % c.p : Int) : ZMod c.p.toNat) =
      (lam : ZMod c.p.toNat) ^ 2 - x₁ - x₂ := by
    rw [hc.intCast_emod]
    push_cast
    ring
  have key := third_point_on_cubic h₁ hline hslope h₃
  rw [hc.intCast_emod]
  push_cast at key ⊢
  exact key

theorem Legal.ecDbl_member {pt : Point} (h : pt.member c = true) : (ecDbl c pt).member c = true := by
  cases pt with
  | inf => rfl
  | affine x y =>
    obtain ⟨-, hy, hxy⟩ := hc.onCurve_iff.1 h
    simp only [ecDbl]
    split_ifs with hy0
    · rfl
    · have hinv := hc.mul_modInv (hc.two_mul_ne_zero hy hy0)
      refine hc.chordPoint_member (y₂ := y) hxy (by ring) ?_
      rw [hc.intCast_emod]
      push_cast at hinv ⊢
      linear_combination (3 * (x : ZMod c.p.toNat) ^ 2 + c.a) * hinv

theorem Legal.ecAdd_member {q r : Point} (hq : q.member c = true) (hr : r.member c = true) :
    (ecAdd c q r).member c = true := by
  have : Fact c.p.toNat.Prime := ⟨hc.p_prime⟩
  cases q with
  | inf => exact hr
  | affine x₁ y₁ =>
    cases r with
    | inf => exact hq
    | affine x₂ y₂ =>
      obtain ⟨hx₁, -, h₁⟩ := hc.onCurve_iff.1 hq
      obtain ⟨hx₂, -, h₂⟩ := hc.onCurve_iff.1 hr
      simp only [ecAdd]
      split_ifs with hx hy
      · rfl
      · exact hc.ecDbl_member hq
      · have hne : (x₁ : ZMod c.p.toNat) ≠ x₂ := fun h => hx (hc.eq_of_intCast_eq hx₁ hx₂ h)
        have hinv := hc.mul_modInv (x := x₂ - x₁)
          (by rw [Int.cast_sub]; exact sub_ne_zero.2 hne.symm)
        have hline : (((y₂ - y₁) * modInv (x₂ - x₁) c.p % c.p : Int) : ZMod c.p.toNat) *
            (x₂ - x₁) = y₂ - y₁ := by
          rw [hc.intCast_emod]
          push_cast at hinv ⊢
          linear_combination ((y₂ : ZMod c.p.toNat) - y₁) * hinv
        exact hc.chordPoint_member h₁ hline (chord_slope hne h₁ h₂ hline)

theorem Legal.ecMulLoop_member {k : Nat} {pt q : Point} (hp : pt.member c = true) (hq : q.member c = true)
    (i : Nat) : (ecMulLoop c k pt i q).member c = true := by
  induction i generalizing q with
  | zero => exact hq
  | succ i ih =>
    refine ih ?_
    unfold ecMulStep
    split
    · exact hc.ecAdd_member (hc.ecDbl_member hq) hp
    · exact hc.ecDbl_member hq

theorem Legal.ecMul_member {k : Nat} {pt : Point} (h : pt.member c = true) : (ecMul c k pt).member c = true :=
  hc.ecMulLoop_member h rfl _

theorem Legal.basePoint_member : (basePoint c).member c = true := hc.base_on

/-! ## RECOVER's points -/

/-- The root RECOVER takes is in [0, p) and squares to alpha (45_ecdsa.md R124). -/
theorem Legal.rootOfParity?_spec {alpha parity y : Int} (h : rootOfParity? c alpha parity = some y) :
    (0 ≤ y ∧ y < c.p) ∧ y * y % c.p = alpha := by
  have hlt : powMod alpha.toNat ((c.p.toNat + 1) / 4) c.p.toNat < c.p.toNat := by
    rw [powMod_eq]
    exact Nat.mod_lt _ hc.p_prime.pos
  simp only [rootOfParity?] at h
  generalize powMod alpha.toNat ((c.p.toNat + 1) / 4) c.p.toNat = root at h hlt
  split_ifs at h with hsq hpar hpar'
  · obtain rfl := Option.some.inj h
    exact ⟨by omega, hsq⟩
  · obtain rfl := Option.some.inj h
    refine ⟨by omega, ?_⟩
    rw [← hsq, show (c.p - (root : Int)) * (c.p - root) = root * root + (c.p - 2 * root) * c.p by ring,
      Int.add_mul_emod_self_right]

theorem Legal.candidatePoint_member {r s v : Int} {pt : Point} (h : candidatePoint c r s v = .ok pt) :
    pt.member c = true := by
  simp only [candidatePoint, Result.bind_eq_ok, require_eq_ok, decide_eq_true_eq, Bool.and_eq_true,
    inScalarRange] at h
  obtain ⟨-, ⟨hr, -⟩, -, hv, -, hx, h⟩ := h
  have hn := hc.n_pos
  have hx0 : 0 ≤ r + v / 2 * c.n := by
    have := Int.mul_nonneg (Int.ediv_nonneg hv.1 (by decide : (0 : Int) ≤ 2)) hn.le
    omega
  cases hroot : rootOfParity? c (Curve.rhs c (r + v / 2 * c.n) % c.p) (v % 2) with
  | none => simp [hroot] at h
  | some y =>
    obtain ⟨⟨hy0, hyp⟩, hsq⟩ := hc.rootOfParity?_spec hroot
    rw [hroot] at h
    obtain rfl := Except.ok.inj h
    exact decide_eq_true ⟨hx0, hx, hy0, hyp, Int.emod_eq_emod_iff_emod_sub_eq_zero.1 hsq⟩

theorem Legal.recoveredKey_member {r s z : Int} {cand : Point} (h : cand.member c = true) :
    (recoveredKey c r s z cand).member c = true :=
  hc.ecAdd_member (hc.ecMul_member hc.basePoint_member) (hc.ecMul_member h)

end Legal

end Sys2Proof.Config.Curve
end

section
/-! SUPPORT. All that a turn can do, once, as Laws/Exec.lean says it for an instruction: a host write, a step of the
engine, and a step of the machine, each with what it says of the state it starts from. -/

namespace Sys2Proof.Machine

section Turns
variable {s t : State}

/-! ## A host write -/

/-- The effects a host write of a word can have. -/
inductive HostWrite (offset : Nat) (u : Word) (s : State) : State → Prop where
  /-- Nothing: a read-only, unlisted or unmapped offset, an action bit that does not apply, reset asserted. -/
  | ignored : HostWrite offset u s s
  /-- START while IDLE (60_exceptions.md R137). -/
  | start (ho : offset = 0x10) (hu : u.getLsbD 0 = true) (hb : s.busy = false) : HostWrite offset u s s.start
  /-- ABORT while BUSY (60_exceptions.md R138). -/
  | abort (ho : offset = 0x10) (hu : u.getLsbD 1 = true) (hb : s.busy = true) :
      HostWrite offset u s (s.raise .aborted)
  /-- An access the protocol forbids (60_exceptions.md R139). -/
  | forbidden : HostWrite offset u s s.protocolError
  /-- STATUS. -/
  | status : HostWrite offset u s (s.writeStatus u)
  /-- IRQ_EN. -/
  | irqEn (v : BitVec 3) : HostWrite offset u s { s with irqEn := v }
  /-- START_PC. -/
  | startPc (v : BitVec 16) : HostWrite offset u s { s with startPc := v }
  /-- NONCE_W[i] while NONCE_VALID = 0. -/
  | nonceWord (w : Vector Word 8) (hn : s.nonceValid = false) : HostWrite offset u s { s with nonceW := w }
  /-- NONCE_CTRL. -/
  | nonceCtrl : HostWrite offset u s (s.writeNonceCtrl u)
  /-- A word of the DMEM window while IDLE. -/
  | dmem (a : Nat) (ho : offset = 0x8000 + a) (ha : a < s.build.dmemBytes) (hb : s.busy = false) :
      HostWrite offset u s { s with dmem := writeBytes s.dmem a (leBytes 4 u.toNat) }
  /-- A word of the IMEM window while IDLE. -/
  | imem (i : Nat) (hi : i < s.build.imemWords) (hb : s.busy = false) :
      HostWrite offset u s { s with imem := Cells.write s.imem i u }

theorem HostWrite.of_writeCtrl {offset : Nat} (ho : offset = 0x10) (u : Word) :
    HostWrite offset u s (s.writeCtrl u) := by
  unfold State.writeCtrl State.abort
  cases hb : s.busy
  · simp only [Bool.false_eq_true, if_false]
    split_ifs with hu
    · exact .start ho hu hb
    · exact .ignored
  · simp only [if_true]
    split_ifs with hu hu'
    · exact .abort ho hu hb
    · exact .forbidden
    · exact .ignored

theorem HostWrite.of_writeNonceWord {offset : Nat} {u : Word} (i : Fin 8) :
    HostWrite offset u s (s.writeNonceWord i u) := by
  unfold State.writeNonceWord
  split_ifs with hn
  · exact .forbidden
  · exact .nonceWord _ (by simpa using hn)

theorem HostWrite.of_csrWrite {offset : Nat} {u : Word} : HostWrite offset u s (s.csrWrite offset u) := by
  unfold State.csrWrite
  split
  case h_1 => exact .of_writeCtrl rfl u
  case h_2 => exact .status
  case h_3 => exact .irqEn _
  case h_4 => exact .startPc _
  case h_13 => exact .nonceCtrl
  case h_14 => exact .ignored
  all_goals exact .of_writeNonceWord _

/-- Every host write has one of these effects. -/
theorem hostWrite_effect (offset : Nat) (u : Word) (s : State) : HostWrite offset u s (s.hostWrite offset u) := by
  unfold State.hostWrite State.hostRegion
  split_ifs
  · exact .ignored
  · exact .of_csrWrite
  · simp only [State.dmemWindowWrite]
    split_ifs with hb
    · exact .forbidden
    · exact .dmem _ (by omega) (by omega) (by simpa using hb)
  · simp only [State.imemWindowWrite]
    split_ifs with hb
    · exact .forbidden
    · exact .imem _ (by omega) (by simpa using hb)
  · exact .ignored

/-- While reset is asserted a host write has no effect (70_reset_and_hazards.md R151). -/
theorem hostWrite_of_resetLine (offset : Nat) (u : Word) (h : s.resetLine = true) : s.hostWrite offset u = s := by
  simp [State.hostWrite, h]

/-- No host write touches the build, a register or the reset level. -/
theorem HostWrite.frame {offset : Nat} {u : Word} (h : HostWrite offset u s t) :
    t.build = s.build ∧ t.b = s.b ∧ t.vb = s.vb ∧ t.p = s.p ∧ t.vp = s.vp ∧ t.resetLine = s.resetLine := by
  cases h <;> exact ⟨rfl, rfl, rfl, rfl, rfl, rfl⟩

/-! ## A step of the engine -/

/-- What a step of the engine can be. -/
inductive EngineStep (s t : State) : Prop where
  /-- IDLE, held by reset, or waiting for a nonce (logs 10 to 12). -/
  | holds (ht : t = s)
  /-- A fetch past IMEM, or of a word that is no instruction. -/
  | fetchError (k : Nat) (e : EngineError) (hl : s.resetLine = false) (hr : s.runState = .run)
      (ht : t = (s.useDraws k).raise e)
  /-- The fetched instruction, after k draws. -/
  | executes (k : Nat) (i : Instr) (hl : s.resetLine = false) (hr : s.runState = .run)
      (ht : exec i (s.useDraws k) = .next t)
  /-- A SIGN that waited goes on (45_ecdsa.md R121). -/
  | resumes (held : SignOperands) (hl : s.resetLine = false) (hr : s.runState = .nonceWait held)
      (hn : s.nonceValid = true)
      (ht : exec (.sign held.a held.b held.c held.lows) { s with runState := .run } = .next t)

theorem EngineStep.of_runStep (hl : s.resetLine = false) (hr : s.runState = .run) (h : runStep s = .next t) :
    EngineStep s t := by
  unfold runStep at h
  split at h
  · exact .fetchError 0 .pcRange hl hr (Host.Outcome.next.inj h).symm
  · rename_i w u hf
    obtain ⟨k, rfl⟩ : ∃ k, u = s.useDraws k := by
      obtain ⟨-, ⟨-, rfl⟩ | ⟨-, -, rfl⟩⟩ := State.fetch_eq_some.1 hf
      · exact ⟨0, rfl⟩
      · exact ⟨1, rfl⟩
    split at h
    · exact .fetchError k .illegalInstruction hl hr (Host.Outcome.next.inj h).symm
    · exact .executes k _ hl hr h

/-- Every step of the engine is one of these. -/
theorem engineStep_effect (h : engineStep s = .next t) : EngineStep s t := by
  unfold engineStep at h
  split at h
  · exact .holds (Host.Outcome.next.inj h).symm
  · rename_i hl
    have hl : s.resetLine = false := by simpa using hl
    split at h
    · exact .holds (Host.Outcome.next.inj h).symm
    · exact .of_runStep hl ‹_› h
    · rename_i held hr
      split at h
      · exact .resumes held hl hr ‹_› h
      · exact .holds (Host.Outcome.next.inj h).symm

/-! ## A step of the machine -/

/-- The state once the next turn, if there is one, is taken off the schedule. -/
def State.advance (s : State) : State := { s with inputs := s.inputs.tail }

theorem State.advance_of_nil (h : s.inputs = []) : s.advance = s := by
  cases s
  cases h
  rfl

theorem State.advance_of_cons {turn : Turn} {rest : List Turn} (h : s.inputs = turn :: rest) :
    s.advance = { s with inputs := rest } := by
  rw [State.advance, h, List.tail_cons]

/-- What a step of the machine can be. -/
inductive Step (s t : State) : Prop where
  /-- A step of the engine. -/
  | engine (h : EngineStep s.advance t)
  /-- A host read. -/
  | read (offset : BitVec 18) (rest : List Turn) (hin : s.inputs = .read offset .word :: rest)
      (ht : t = s.advance.hostRead offset.toNat)
  /-- A host write. -/
  | write (offset : BitVec 18) (u : Word) (rest : List Turn) (hin : s.inputs = .write offset .word u :: rest)
      (ho : offset.toNat % 4 = 0) (ht : t = s.advance.hostWrite offset.toNat u)
  /-- Reset is asserted. -/
  | assertReset (rest : List Turn) (hin : s.inputs = .assertReset :: rest) (ht : t = s.advance.assertReset)
  /-- Reset is released. -/
  | releaseReset (rest : List Turn) (hin : s.inputs = .releaseReset :: rest) (ht : t = s.advance.releaseReset)

/-- A host access that is answered is of a word at a multiple of 4 (20_memory.md R52). -/
theorem hostAccess_eq_next {offset : BitVec 18} {width : AccessWidth} {effect : Nat → State} :
    hostAccess offset width effect = .next t ↔
      width = .word ∧ offset.toNat % 4 = 0 ∧ t = effect offset.toNat := by
  have hw : wordAccess offset width = true ↔ width = .word ∧ offset.toNat % 4 = 0 := by simp [wordAccess]
  unfold hostAccess
  split_ifs with h
  · obtain ⟨hword, ho⟩ := hw.1 h
    simp only [hword, ho, true_and, Host.Outcome.next.injEq, eq_comm]
  · simp only [false_iff]
    exact fun ⟨hword, ho, _⟩ => h (hw.2 ⟨hword, ho⟩)

/-- Every step of the machine is one of these. -/
theorem step_effect (h : step s = .next t) : Step s t := by
  unfold step at h
  split at h
  · rename_i hin
    exact .engine (engineStep_effect ((State.advance_of_nil hin).symm ▸ h))
  · rename_i turn rest hin
    rw [← State.advance_of_cons hin] at h
    unfold takeTurn at h
    cases turn with
    | engine => exact .engine (engineStep_effect h)
    | read offset width =>
      obtain ⟨rfl, -, rfl⟩ := hostAccess_eq_next.1 h
      exact .read offset rest hin rfl
    | write offset width u =>
      obtain ⟨rfl, ho, rfl⟩ := hostAccess_eq_next.1 h
      exact .write offset u rest hin ho rfl
    | assertReset => exact .assertReset rest hin (Host.Outcome.next.inj h).symm
    | releaseReset => exact .releaseReset rest hin (Host.Outcome.next.inj h).symm

/-! ## A step from a state that faces a turn -/

theorem step_facingWrite {offset : BitVec 18} (ho : offset.toNat % 4 = 0) (u : Word) (s : State) :
    step (facingWrite offset u s) = .next (s.hostWrite offset.toNat u) :=
  hostAccess_eq_next (effect := fun o => s.hostWrite o u).2 ⟨rfl, ho, rfl⟩

theorem step_facingRead {offset : BitVec 18} (ho : offset.toNat % 4 = 0) (s : State) :
    step (facing (.read offset .word) s) = .next (gaveHost (s.hostReadValue offset.toNat) s) :=
  hostAccess_eq_next (effect := fun o => s.hostRead o).2 ⟨rfl, ho, rfl⟩

end Turns

end Sys2Proof.Machine
end

section
/-! SUPPORT. O46, 10_state.md R26: what each effect of an instruction leaves of the state around it, and that every
point an instruction writes is INF or on the curve. -/

namespace Sys2Proof.Machine

section Points
variable {i : Instr} {s t : State}

/-- No instruction touches the build, IMEM or the reset level. -/
theorem Effect.frame (h : Effect i s t) :
    t.build = s.build ∧ t.imem = s.imem ∧ t.resetLine = s.resetLine := by
  cases h <;> exact ⟨rfl, rfl, rfl⟩

/-- An instruction without a point destination keeps the point file. -/
theorem Effect.keeps_points (h : Effect i s t) (hi : pointDestination i = none) : t.p = s.p ∧ t.vp = s.vp := by
  cases h with
  | point a pt ha => exact absurd (ha.symm.trans hi) (by simp)
  | _ => exact ⟨rfl, rfl⟩

/-- R26 speaks of the build and the point file only. -/
theorem PointsOnCurve.congr (h : PointsOnCurve s) (hk : t.build = s.build) (hp : t.p = s.p) (hv : t.vp = s.vp) :
    PointsOnCurve t := by
  unfold PointsOnCurve
  rw [hk, hp, hv]
  exact h

theorem PointsOnCurve.setP (h : PointsOnCurve s) {a : PReg} {pt : Point} (hpt : pt.member s.build.curve = true) :
    PointsOnCurve (s.setP a pt) := by
  intro r hr
  by_cases hra : r = a
  · subst hra
    have : (s.setP r pt).p[r] = pt := Vector.getElem_set_self r.isLt
    rwa [this]
  · obtain ⟨hp, hv⟩ := setP_keeps_other (s := s) pt hra
    rw [hp]
    exact h r (hv ▸ hr)

/-- What an instruction with the point destination a may answer: an error entry, or INF or a point on the curve in
that register. -/
def WritesMember (a : PReg) (s t : State) : Prop :=
  (∃ e, t = s.raise e) ∨ ∃ pt : Point, pt.member s.build.curve = true ∧ t = (s.setP a pt).nextPc

theorem WritesMember.keeps_pointsOnCurve {a : PReg} (h : WritesMember a s t) (hP : PointsOnCurve s) :
    PointsOnCurve t := by
  obtain ⟨e, rfl⟩ | ⟨pt, hpt, rfl⟩ := h
  · exact hP.congr rfl rfl rfl
  · exact (hP.setP hpt).congr rfl rfl rfl

theorem WritesMember.of_finish {a : PReg} {r : Result State} (h : finish s r = .next t)
    (hr : r = .ok t → ∃ pt : Point, pt.member s.build.curve = true ∧ (s.setP a pt).nextPc = t) :
    WritesMember a s t := by
  obtain h | ⟨e, -, he⟩ := finish_eq_next.1 h
  · obtain ⟨pt, hpt, ht⟩ := hr h
    exact .inr ⟨pt, hpt, ht.symm⟩
  · exact .inl ⟨e, he⟩

/-- The seven instructions of 10_state.md R26: PINF and PGEN by their constants, PMK by its check, the others by the
group operations on registers that hold points of the curve. -/
theorem exec_writesMember {a : PReg} (hL : s.build.Legal) (hP : PointsOnCurve s) (hi : pointDestination i = some a)
    (h : exec i s = .next t) : WritesMember a s t := by
  have hc := hL.curve_legal
  cases i with
  | pinf _ =>
    cases hi
    exact .inr ⟨.inf, rfl, (Host.Outcome.next.inj h).symm⟩
  | pgen _ =>
    cases hi
    exact .inr ⟨_, hc.basePoint_member, (Host.Outcome.next.inj h).symm⟩
  | pmk _ b c =>
    cases hi
    refine .of_finish h fun hr => ?_
    obtain ⟨xy, -, hr⟩ := Result.bind_eq_ok.1 hr
    obtain ⟨_, hon, hr⟩ := Result.bind_eq_ok.1 hr
    exact ⟨.affine xy.1 xy.2, require_eq_ok.1 hon, Except.ok.inj hr⟩
  | padd _ b c =>
    cases hi
    refine .of_finish h fun hr => ?_
    obtain ⟨q, hq, hr⟩ := Result.bind_eq_ok.1 hr
    obtain ⟨r, hr', hr⟩ := Result.bind_eq_ok.1 hr
    obtain ⟨hvq, rfl⟩ := State.readP_eq_ok.1 hq
    obtain ⟨hvr, rfl⟩ := State.readP_eq_ok.1 hr'
    exact ⟨_, hc.ecAdd_member (hP b hvq) (hP c hvr), Except.ok.inj hr⟩
  | pdbl _ b =>
    cases hi
    refine .of_finish h fun hr => ?_
    obtain ⟨q, hq, hr⟩ := Result.bind_eq_ok.1 hr
    obtain ⟨hvq, rfl⟩ := State.readP_eq_ok.1 hq
    exact ⟨_, hc.ecDbl_member (hP b hvq), Except.ok.inj hr⟩
  | pmul _ b c =>
    cases hi
    refine .of_finish h fun hr => ?_
    obtain ⟨k, -, hr⟩ := Result.bind_eq_ok.1 hr
    obtain ⟨q, hq, hr⟩ := Result.bind_eq_ok.1 hr
    obtain ⟨_, -, hr⟩ := Result.bind_eq_ok.1 hr
    obtain ⟨hvq, rfl⟩ := State.readP_eq_ok.1 hq
    exact ⟨_, hc.ecMul_member (hP c hvq), Except.ok.inj hr⟩
  | recover _ b c =>
    cases hi
    refine .of_finish h fun hr => ?_
    obtain ⟨_, -, hr⟩ := Result.bind_eq_ok.1 hr
    obtain ⟨_, -, hr⟩ := Result.bind_eq_ok.1 hr
    obtain ⟨_, -, hr⟩ := Result.bind_eq_ok.1 hr
    obtain ⟨_, -, hr⟩ := Result.bind_eq_ok.1 hr
    obtain ⟨_, -, hr⟩ := Result.bind_eq_ok.1 hr
    obtain ⟨cand, hcand, hr⟩ := Result.bind_eq_ok.1 hr
    obtain ⟨_, -, hr⟩ := Result.bind_eq_ok.1 hr
    exact ⟨_, hc.recoveredKey_member (hc.candidatePoint_member hcand), Except.ok.inj hr⟩
  | _ => cases hi

theorem exec_keeps_pointsOnCurve (hL : s.build.Legal) (hP : PointsOnCurve s) (h : exec i s = .next t) :
    PointsOnCurve t := by
  cases hi : pointDestination i with
  | none =>
    obtain ⟨hp, hv⟩ := (exec_effect h).keeps_points hi
    obtain ⟨hk, -, -⟩ := (exec_effect h).frame
    exact hP.congr hk hp hv
  | some a => exact (exec_writesMember hL hP hi h).keeps_pointsOnCurve hP

theorem EngineStep.keeps_pointsOnCurve (h : EngineStep s t) (hL : s.build.Legal) (hP : PointsOnCurve s) :
    PointsOnCurve t := by
  cases h with
  | holds ht => exact ht ▸ hP
  | fetchError k e _ _ ht =>
    subst ht
    exact hP.congr rfl rfl rfl
  | executes k i _ _ ht => exact exec_keeps_pointsOnCurve (s := s.useDraws k) hL hP ht
  | resumes held _ _ _ ht => exact exec_keeps_pointsOnCurve (s := { s with runState := .run }) hL hP ht

theorem assertReset_pointsOnCurve : PointsOnCurve s.assertReset := by
  intro r hr
  have hv : s.assertReset.vp[r] = false := Vector.getElem_replicate r.isLt
  exact absurd (hv.symm.trans hr) (by decide)

theorem step_keeps_pointsOnCurve (hL : s.build.Legal) (hP : PointsOnCurve s) (h : step s = .next t) :
    PointsOnCurve t := by
  cases step_effect h with
  | engine he => exact he.keeps_pointsOnCurve hL hP
  | read offset rest _ ht =>
    subst ht
    exact hP.congr rfl rfl rfl
  | write offset u rest _ _ ht =>
    subst ht
    obtain ⟨hk, -, -, hp, hv, -⟩ := (hostWrite_effect offset.toNat u s.advance).frame
    exact hP.congr hk hp hv
  | assertReset rest _ ht => exact ht ▸ assertReset_pointsOnCurve
  | releaseReset rest _ ht =>
    subst ht
    exact hP.congr rfl rfl rfl

/-- A host access, and the release of reset, keep the point file. -/
theorem takeTurn_keeps_points {turn : Turn} (he : turn ≠ .engine) (hr : turn ≠ .assertReset)
    (h : takeTurn turn s = .next t) : t.p = s.p ∧ t.vp = s.vp := by
  unfold takeTurn at h
  cases turn with
  | engine => exact absurd rfl he
  | read offset width =>
    obtain ⟨-, -, rfl⟩ := hostAccess_eq_next.1 h
    exact ⟨rfl, rfl⟩
  | write offset width u =>
    obtain ⟨-, -, rfl⟩ := hostAccess_eq_next.1 h
    obtain ⟨-, -, -, hp, hv, -⟩ := (hostWrite_effect offset.toNat u s).frame
    exact ⟨hp, hv⟩
  | assertReset => exact absurd rfl hr
  | releaseReset =>
    obtain rfl := Host.Outcome.next.inj h
    exact ⟨rfl, rfl⟩

end Points

/-- Settles O46, by the group law's membership for the seven instructions that write a point and by frames for
everything else. -/
theorem pointsStayOnTheCurve : Obligations.PointsStayOnTheCurve := by
  unfold Obligations.PointsStayOnTheCurve
  exact ⟨fun _ _ => step_keeps_pointsOnCurve, fun _ _ _ hi h => (exec_effect h).keeps_points hi,
    fun _ _ _ he hr h => takeTurn_keeps_points he hr h⟩

end Sys2Proof.Machine
end

section
/-! SUPPORT. O44: each part of the invariant is kept by every effect of an instruction, by every host write, and by
reset; a step of the machine is one of these. -/

namespace Sys2Proof.Machine

section Invariant
variable {i : Instr} {s t : State}

/-! ## Registers within capacity (10_state.md R22) -/

theorem RegistersFit.congr (h : RegistersFit s) (hk : t.build = s.build) (hb : t.b = s.b) (hv : t.vb = s.vb) :
    RegistersFit t := by
  unfold RegistersFit
  rw [hk, hb, hv]
  exact h

theorem RegistersFit.setB (h : RegistersFit s) {a : BReg} {v : Int} (hv : s.fits v = true) :
    RegistersFit (s.setB a v) := by
  intro r hr
  by_cases hra : r = a
  · subst hra
    have : (s.setB r v).b[r] = v := Vector.getElem_set_self r.isLt
    rw [this]
    exact fits_iff.1 hv
  · obtain ⟨hb, hvb⟩ := setB_keeps_other (s := s) v hra
    rw [hb]
    exact h r (hvb ▸ hr)

theorem Effect.keeps_registersFit (he : Effect i s t) (h : RegistersFit s) : RegistersFit t := by
  cases he with
  | result a v k _ hv => exact (RegistersFit.setB (s := s.useDraws k) h hv).congr rfl rfl rfl
  | signed a _ _ _ r sg v _ _ _ hr hs hv =>
    exact (((RegistersFit.setB (s := s.consumeNonce) h hr).setB hs).setB hv).congr rfl rfl rfl
  | _ => exact h.congr rfl rfl rfl

/-! ## Canonical memories (log 13) -/

theorem memoriesCanonical_iff :
    MemoriesCanonical s ↔
      Memory.wf s.build.imemWords s.imem = true ∧ Memory.wf s.build.dmemBytes s.dmem = true := by
  simp [MemoriesCanonical, State.memoriesWf]

theorem Effect.keeps_memoriesCanonical (he : Effect i s t) (h : MemoriesCanonical s) : MemoriesCanonical t := by
  cases he with
  | store addr bytes _ hr =>
    obtain ⟨hi, hd⟩ := memoriesCanonical_iff.1 h
    exact memoriesCanonical_iff.2 ⟨hi, writeBytes_keeps_wf hd hr⟩
  | _ => exact h

/-- The DMEM window's words lie inside DMEM, whose size is a multiple of 4 (00_scope.md R12). -/
theorem HostWrite.keeps_memoriesCanonical {offset : Nat} {u : Word} (hw : HostWrite offset u s t)
    (ho : offset % 4 = 0) (hL : s.build.Legal) (h : MemoriesCanonical s) : MemoriesCanonical t := by
  obtain ⟨hi, hd⟩ := memoriesCanonical_iff.1 h
  cases hw with
  | dmem a hoff ha _ =>
    have hstep := hL.dmemBytes_step
    have hend : a + (leBytes 4 u.toNat).length ≤ s.build.dmemBytes := by
      rw [leBytes_length]
      omega
    exact memoriesCanonical_iff.2 ⟨hi, writeBytes_keeps_wf hd hend⟩
  | imem i hlt _ => exact memoriesCanonical_iff.2 ⟨Memory.write_keeps_wf u hi hlt, hd⟩
  | _ => exact h

/-! ## The record of an end while BUSY (60_exceptions.md R137) -/

theorem busy_eq_true_of_ne_idle (h : s.runState ≠ .idle) : s.busy = true := by
  unfold State.busy
  split
  · exact absurd ‹_› h
  · rfl
  · rfl

/-- From a BUSY state an instruction ends the run or leaves the record clear. -/
theorem Effect.keeps_busyIsClean (he : Effect i s t) (hb : s.busy = true) (h : BusyIsClean s) :
    BusyIsClean t := by
  cases he with
  | error | signError | halts => exact fun ht => absurd ht Bool.false_ne_true
  | _ => exact fun _ => h hb

theorem HostWrite.keeps_busyIsClean {offset : Nat} {u : Word} (hw : HostWrite offset u s t) (h : BusyIsClean s) :
    BusyIsClean t := by
  cases hw with
  | start => exact fun _ => ⟨rfl, rfl, rfl, rfl⟩
  | abort => exact fun ht => absurd ht Bool.false_ne_true
  | status =>
    intro ht
    obtain ⟨hd, he, hc, hp⟩ := h ht
    exact ⟨by simp [State.writeStatus, hd], by simp [State.writeStatus, he], hc, hp⟩
  | _ => exact h

/-! ## Error codes (60_exceptions.md R132) -/

theorem Effect.keeps_errorCodeKnown (he : Effect i s t) (h : ErrorCodeKnown s) : ErrorCodeKnown t := by
  cases he with
  | error _ e => exact .inr ⟨e, rfl⟩
  | signError _ _ _ _ _ _ _ e => exact .inr ⟨e, rfl⟩
  | _ => exact h

theorem HostWrite.keeps_errorCodeKnown {offset : Nat} {u : Word} (hw : HostWrite offset u s t)
    (h : ErrorCodeKnown s) : ErrorCodeKnown t := by
  cases hw with
  | start => exact .inl rfl
  | abort => exact .inr ⟨.aborted, rfl⟩
  | _ => exact h

/-! ## The SIGN that waits (30_encoding.md R73) -/

theorem Effect.keeps_heldSignFits (he : Effect i s t) (h : HeldSignFits s) : HeldSignFits t := by
  cases he with
  | waits a b c lows _ _ hg | retries a b c lows _ _ hg =>
    intro held ht
    cases ht
    exact hg
  | error | signError | halts => exact fun held ht => (by cases ht)
  | _ => exact h

theorem HostWrite.keeps_heldSignFits {offset : Nat} {u : Word} (hw : HostWrite offset u s t)
    (h : HeldSignFits s) : HeldSignFits t := by
  cases hw with
  | start | abort => exact fun held ht => (by cases ht)
  | _ => exact h

/-! ## Reset values while reset is asserted (70_reset_and_hazards.md R151) -/

theorem ResetHolds.of_released (h : t.resetLine = false) : ResetHolds t :=
  fun ht => absurd (h.symm.trans ht) Bool.false_ne_true

/-! ## Every turn -/

theorem Inv.useDraws (h : Inv s) (hl : s.resetLine = false) (k : Nat) : Inv (s.useDraws k) :=
  ⟨h.build, h.registers, h.points, h.memories, h.busy, h.code, h.held, .of_released hl⟩

/-- An error entry keeps the invariant. -/
theorem Inv.raise (h : Inv s) (hl : s.resetLine = false) (e : EngineError) : Inv (s.raise e) :=
  ⟨h.build, h.registers, h.points, h.memories, fun ht => absurd ht Bool.false_ne_true, .inr ⟨e, rfl⟩,
    fun held ht => (by cases ht), .of_released hl⟩

/-- A SIGN that goes on does so from a state of RUN. -/
theorem Inv.resume (h : Inv s) (hl : s.resetLine = false) (hb : s.busy = true) :
    Inv { s with runState := .run } :=
  ⟨h.build, h.registers, h.points, h.memories, fun _ => h.busy hb, h.code, fun held ht => (by cases ht),
    .of_released hl⟩

theorem exec_keeps_inv (h : Inv s) (hl : s.resetLine = false) (hb : s.busy = true) (hx : exec i s = .next t) :
    Inv t := by
  have he := exec_effect hx
  obtain ⟨hk, -, hreset⟩ := he.frame
  exact {
    build := hk ▸ h.build
    registers := he.keeps_registersFit h.registers
    points := exec_keeps_pointsOnCurve h.build h.points hx
    memories := he.keeps_memoriesCanonical h.memories
    busy := he.keeps_busyIsClean hb h.busy
    code := he.keeps_errorCodeKnown h.code
    held := he.keeps_heldSignFits h.held
    reset := .of_released (hreset.trans hl) }

theorem EngineStep.keeps_inv (he : EngineStep s t) (h : Inv s) : Inv t := by
  cases he with
  | holds ht => exact ht ▸ h
  | fetchError k e hl _ ht => exact ht ▸ (h.useDraws hl k).raise hl e
  | executes k i hl hr ht =>
    have hb : s.busy = true := busy_eq_true_of_ne_idle (by simp [hr])
    exact exec_keeps_inv (h.useDraws hl k) hl hb ht
  | resumes held hl hr _ ht =>
    have hb : s.busy = true := busy_eq_true_of_ne_idle (by simp [hr])
    exact exec_keeps_inv (h.resume hl hb) hl rfl ht

theorem Inv.advance (h : Inv s) : Inv s.advance :=
  ⟨h.build, h.registers, h.points, h.memories, h.busy, h.code, h.held,
    fun hl => congrArg State.advance (h.reset hl)⟩

theorem Inv.hostRead (h : Inv s) (offset : Nat) : Inv (s.hostRead offset) :=
  ⟨h.build, h.registers, h.points, h.memories, h.busy, h.code, h.held,
    fun hl => (by
      rw [State.hostRead, h.reset hl]
      rfl)⟩

theorem Inv.hostWrite (h : Inv s) {offset : Nat} (ho : offset % 4 = 0) (u : Word) :
    Inv (s.hostWrite offset u) := by
  cases hl : s.resetLine with
  | true => exact (hostWrite_of_resetLine offset u hl).symm ▸ h
  | false =>
    have hw := hostWrite_effect offset u s
    obtain ⟨hk, hb, hvb, hp, hvp, hreset⟩ := hw.frame
    exact {
      build := hk ▸ h.build
      registers := h.registers.congr hk hb hvb
      points := h.points.congr hk hp hvp
      memories := hw.keeps_memoriesCanonical ho h.build h.memories
      busy := hw.keeps_busyIsClean h.busy
      code := hw.keeps_errorCodeKnown h.code
      held := hw.keeps_heldSignFits h.held
      reset := .of_released (hreset.trans hl) }

theorem assertReset_registersFit : RegistersFit s.assertReset := by
  intro r hr
  have hv : s.assertReset.vb[r] = false := Vector.getElem_replicate r.isLt
  exact absurd (hv.symm.trans hr) Bool.false_ne_true

theorem Inv.assertReset (h : Inv s) : Inv s.assertReset :=
  ⟨h.build, assertReset_registersFit, assertReset_pointsOnCurve, h.memories,
    fun ht => absurd ht Bool.false_ne_true, .inl rfl, fun held ht => (by cases ht), fun _ => rfl⟩

theorem Inv.releaseReset (h : Inv s) : Inv s.releaseReset :=
  ⟨h.build, h.registers, h.points, h.memories, h.busy, h.code, h.held, .of_released rfl⟩

end Invariant

/-- Settles O44, by the turns a step can be. -/
theorem stepKeepsTheInvariant : Obligations.StepKeepsTheInvariant := by
  unfold Obligations.StepKeepsTheInvariant
  intro s t h hstep
  cases step_effect hstep with
  | engine he => exact he.keeps_inv h.advance
  | read offset _ _ ht => exact ht ▸ h.advance.hostRead offset.toNat
  | write offset u _ _ ho ht => exact ht ▸ h.advance.hostWrite ho u
  | assertReset _ _ ht => exact ht ▸ h.advance.assertReset
  | releaseReset _ _ ht => exact ht ▸ h.advance.releaseReset

end Sys2Proof.Machine
end

section
/-! SUPPORT. O47, 10_state.md R23, R25: the contents of invalid registers never matter. Reads see valid registers
only, so two states that differ in invalid ones give every check and every result alike; `exec`, the host's
accesses and every turn keep them alike. -/

namespace Sys2Proof.Machine

section Contents
variable {α : Type} {s s' : State} {a : BReg} {addr : BitVec 12} {len : BitVec 8}

/-! ## States that differ in invalid registers only -/

/-- s with other contents in its register files. -/
def withContents (b : Vector Int 16) (p : Vector Point 8) (s : State) : State := { s with b := b, p := p }

/-- Two states that differ in invalid registers are one state with two contents. -/
theorem SameButInvalid.eq_withContents (h : SameButInvalid s s') : s' = withContents s'.b s'.p s := h.1

theorem SameButInvalid.build_eq (h : SameButInvalid s s') : s'.build = s.build := by
  rw [h.eq_withContents]
  rfl

theorem SameButInvalid.valid_eq (h : SameButInvalid s s') : s'.vb = s.vb ∧ s'.vp = s.vp := by
  rw [h.eq_withContents]
  exact ⟨rfl, rfl⟩

theorem SameButInvalid.refl (s : State) : SameButInvalid s s := ⟨rfl, fun _ _ => rfl, fun _ _ => rfl⟩

/-- An update that neither sees nor writes the contents and keeps the valid bits keeps two states alike. -/
theorem SameButInvalid.map {f : State → State} (h : SameButInvalid s s')
    (hf : ∀ b p s, f (withContents b p s) = withContents b p (f s))
    (hv : (f s).vb = s.vb ∧ (f s).vp = s.vp) : SameButInvalid (f s) (f s') := by
  obtain ⟨hvb, hvp⟩ := hv
  have hs : f s = withContents s.b s.p (f s) := hf s.b s.p s
  have hs' : f s' = withContents s'.b s'.p (f s) := by
    conv_lhs => rw [h.eq_withContents]
    exact hf _ _ s
  obtain ⟨-, hb, hp⟩ := h
  rw [hs', hs]
  exact ⟨rfl, fun r hr => hb r (hvb ▸ hr), fun r hr => hp r (hvp ▸ hr)⟩

theorem SameButInvalid.raise (h : SameButInvalid s s') (e : EngineError) : SameButInvalid (s.raise e) (s'.raise e) :=
  h.map (fun _ _ _ => rfl) ⟨rfl, rfl⟩

theorem SameButInvalid.useDraws (h : SameButInvalid s s') (k : Nat) : SameButInvalid (s.useDraws k) (s'.useDraws k) :=
  h.map (fun _ _ _ => rfl) ⟨rfl, rfl⟩

theorem SameButInvalid.nextPc (h : SameButInvalid s s') : SameButInvalid s.nextPc s'.nextPc :=
  h.map (fun _ _ _ => rfl) ⟨rfl, rfl⟩

theorem SameButInvalid.setT (h : SameButInvalid s s') (t : Bool) : SameButInvalid (s.setT t) (s'.setT t) :=
  h.map (fun _ _ _ => rfl) ⟨rfl, rfl⟩

theorem SameButInvalid.awaitNonce (h : SameButInvalid s s') (held : SignOperands) :
    SameButInvalid (s.awaitNonce held) (s'.awaitNonce held) :=
  h.map (fun _ _ _ => rfl) ⟨rfl, rfl⟩

/-- A register that is written is alike in both from then on. -/
theorem SameButInvalid.setB (h : SameButInvalid s s') (a : BReg) (v : Int) :
    SameButInvalid (s.setB a v) (s'.setB a v) := by
  obtain ⟨hs, hb, hp⟩ := h
  refine ⟨?_, fun r hr => ?_, hp⟩
  · rw [hs]
    rfl
  · by_cases hra : r = a
    · subst hra
      exact (Vector.getElem_set_self r.isLt).trans (Vector.getElem_set_self r.isLt).symm
    · obtain ⟨h₁, hv⟩ := setB_keeps_other (s := s) v hra
      obtain ⟨h₂, -⟩ := setB_keeps_other (s := s') v hra
      rw [h₁, h₂]
      exact hb r (hv ▸ hr)

theorem SameButInvalid.setP (h : SameButInvalid s s') (a : PReg) (pt : Point) :
    SameButInvalid (s.setP a pt) (s'.setP a pt) := by
  obtain ⟨hs, hb, hp⟩ := h
  refine ⟨?_, hb, fun r hr => ?_⟩
  · rw [hs]
    rfl
  · by_cases hra : r = a
    · subst hra
      exact (Vector.getElem_set_self r.isLt).trans (Vector.getElem_set_self r.isLt).symm
    · obtain ⟨h₁, hv⟩ := setP_keeps_other (s := s) pt hra
      obtain ⟨h₂, -⟩ := setP_keeps_other (s := s') pt hra
      rw [h₁, h₂]
      exact hp r (hv ▸ hr)

/-! ## Reads -/

theorem SameButInvalid.readB (h : SameButInvalid s s') (r : BReg) : s'.readB r = s.readB r := by
  obtain ⟨hv, -⟩ := h.valid_eq
  obtain ⟨-, hb, -⟩ := h
  unfold State.readB
  rw [hv]
  split
  · rw [hb r ‹_›]
  · rfl

theorem SameButInvalid.readP (h : SameButInvalid s s') (r : PReg) : s'.readP r = s.readP r := by
  obtain ⟨-, hv⟩ := h.valid_eq
  obtain ⟨-, -, hp⟩ := h
  unfold State.readP
  rw [hv]
  split
  · rw [hp r ‹_›]
  · rfl

theorem SameButInvalid.readB2 (h : SameButInvalid s s') (b c : BReg) : s'.readB2 b c = s.readB2 b c := by
  unfold State.readB2
  rw [h.readB, h.readB]

/-! ## Results and answers -/

/-- Two results that are the same error, or states that differ in invalid registers only. -/
def ResultsAlike : Result State → Result State → Prop
  | .ok t, .ok t' => SameButInvalid t t'
  | .error e, .error e' => e = e'
  | _, _ => False

/-- Two answers that are the same refusal, or next states that differ in invalid registers only. -/
def AnswersAlike : Answer → Answer → Prop
  | .next t, .next t' => SameButInvalid t t'
  | .refused r, .refused r' => r = r'
  | _, _ => False

/-- A read or check that answers alike, and then parts that do. -/
theorem ResultsAlike.bind {r r' : Result α} {f f' : α → Result State} (hr : r' = r)
    (hf : ∀ x, ResultsAlike (f x) (f' x)) : ResultsAlike (r >>= f) (r' >>= f') := by
  subst hr
  cases r' with
  | error e => rfl
  | ok x => exact hf x

/-- A writing operation that answers alike, and then an update that does. -/
theorem ResultsAlike.andThen {r r' : Result State} {f f' : State → Result State} (hr : ResultsAlike r r')
    (hf : ∀ t t', SameButInvalid t t' → ResultsAlike (f t) (f' t')) : ResultsAlike (r >>= f) (r' >>= f') := by
  cases r <;> cases r'
  case error.error => exact hr
  case ok.ok => exact hf _ _ hr
  all_goals exact hr.elim

theorem AnswersAlike.finish {r r' : Result State} (h : SameButInvalid s s') (hr : ResultsAlike r r') :
    AnswersAlike (finish s r) (finish s' r') := by
  cases r <;> cases r'
  case error.error e e' =>
    obtain rfl : e = e' := hr
    exact h.raise e
  case ok.ok => exact hr
  all_goals exact hr.elim

theorem SameButInvalid.writeB (h : SameButInvalid s s') (a : BReg) (v : Int) :
    ResultsAlike (s.writeB a v) (s'.writeB a v) := by
  unfold State.writeB State.fits
  rw [h.build_eq]
  split
  · exact h.setB a v
  · rfl

theorem SameButInvalid.result (h : SameButInvalid s s') (a : BReg) (v : Int) :
    ResultsAlike (s.result a v) (s'.result a v) :=
  (h.writeB a v).andThen fun _ _ ht => ht.map (f := fun t => (t.setZN v).nextPc) (fun _ _ _ => rfl) ⟨rfl, rfl⟩

theorem SameButInvalid.writeSignature (h : SameButInvalid s s') (a : BReg) (r sg v : Int) :
    ResultsAlike (s.writeSignature a r sg v) (s'.writeSignature a r sg v) :=
  (h.writeB _ r).andThen fun _ _ h => (h.writeB _ sg).andThen fun _ _ h =>
    (h.writeB _ v).andThen fun _ _ h => h.nextPc

/-- The end of a store. -/
theorem SameButInvalid.store (h : SameButInvalid s s') (m : Nat) (bytes : List Byte) (L : Nat) :
    ResultsAlike (s.memWrite m bytes >>= fun t => pure (t.setSlen L).nextPc)
      (s'.memWrite m bytes >>= fun t => pure (t.setSlen L).nextPc) := by
  have hin : s'.inDmem m bytes.length = s.inDmem m bytes.length := by
    rw [h.eq_withContents]
    rfl
  unfold State.memWrite
  rw [hin]
  split
  · exact h.map (f := fun t => ((({ t with dmem := writeBytes t.dmem m bytes } : State).setSlen L).nextPc))
      (fun _ _ _ => rfl) ⟨rfl, rfl⟩
  · rfl

/-- A load whose rest answers alike on the same bytes. -/
theorem memReadThen_alike (h : SameButInvalid s s') {m n : Nat}
    {rest rest' : List Byte → State → Result State}
    (hr : ∀ bytes t t', SameButInvalid t t' → ResultsAlike (rest bytes t) (rest' bytes t')) :
    AnswersAlike (memReadThen m n s rest) (memReadThen m n s' rest') := by
  have hin : s'.inDmem m n = s.inDmem m n := by
    rw [h.eq_withContents]
    rfl
  have hbytes : s'.dmemBytes m n = s.dmemBytes m n := by
    rw [h.eq_withContents]
    rfl
  unfold memReadThen
  rw [hin, hbytes]
  split
  · exact .finish (h.useDraws n) (hr _ _ _ (h.useDraws n))
  · exact h.raise _

theorem loadString_alike (h : SameButInvalid s s') (r : Radix) :
    AnswersAlike (loadString r a addr len s) (loadString r a addr len s') :=
  memReadThen_alike h fun bytes _ _ ht => by
    cases parse? r bytes with
    | none => rfl
    | some v => exact ht.result a v

/-! ## The instructions, on one state with other contents -/

variable {b : Vector Int 16} {p : Vector Point 8}

theorem storeInteger_alike (h : SameButInvalid s (withContents b p s))
    (form : Nat → Nat → List Byte) :
    AnswersAlike (storeInteger form a addr len s) (storeInteger form a addr len (withContents b p s)) :=
  .finish h <| .bind (h.readB a) fun _ => .bind rfl fun _ => .bind rfl fun _ => .bind rfl fun _ => h.store _ _ _

theorem storeString_alike (h : SameButInvalid s (withContents b p s)) (r : Radix) :
    AnswersAlike (storeString r a addr len s) (storeString r a addr len (withContents b p s)) :=
  .finish h <| .bind (h.readB a) fun _ => .bind rfl fun _ => .bind rfl fun _ => h.store _ _ _

theorem signOperands_alike (h : SameButInvalid s (withContents b p s)) (a b' c : BReg) :
    signOperands a b' c (withContents b p s) = signOperands a b' c s := by
  unfold signOperands
  rw [h.readB2]
  rfl

theorem signWith_alike (h : SameButInvalid s s') (held : SignOperands) (d z : Int) (n : Nat) :
    AnswersAlike (signWith held d z n s) (signWith held d z n s') := by
  unfold signWith
  rw [h.build_eq]
  split
  · cases signAttempt s.build.curve d z n held.lows with
    | retry => exact h.awaitNonce held
    | signed r sg v => exact .finish h (h.writeSignature held.a r sg v)
  · exact h.raise _

theorem execSign_alike (h : SameButInvalid s (withContents b p s)) (a b' c : BReg) (lows : Bool) :
    AnswersAlike (execSign a b' c lows s) (execSign a b' c lows (withContents b p s)) := by
  unfold execSign
  rw [signOperands_alike h]
  cases signOperands a b' c s with
  | error e => exact h.raise e
  | ok dz =>
    have hc : SameButInvalid s.consumeNonce (withContents b p s).consumeNonce :=
      h.map (fun _ _ _ => rfl) ⟨rfl, rfl⟩
    show AnswersAlike (if s.nonceValid = true then _ else _) (if s.nonceValid = true then _ else _)
    split
    · exact signWith_alike hc _ dz.1 dz.2 s.nonce
    · exact h.awaitNonce _

theorem exec_alike (h : SameButInvalid s (withContents b p s)) (i : Instr) :
    AnswersAlike (exec i s) (exec i (withContents b p s)) := by
  cases i with
  | nop => exact h.nextPc
  | halt | jmp _ => exact h.map (fun _ _ _ => rfl) ⟨rfl, rfl⟩
  | br cond target =>
    show AnswersAlike (.next (if s.flags.holds cond then _ else _)) (.next (if s.flags.holds cond then _ else _))
    split
    · exact h.map (f := State.jump _) (fun _ _ _ => rfl) ⟨rfl, rfl⟩
    · exact h.nextPc
  | ldi _ _ | ldc _ _ => exact .finish h (h.result _ _)
  | mov _ _ => exact .finish h <| .bind (h.readB _) fun _ => h.result _ _
  | add _ _ _ | sub _ _ _ | mul _ _ _ => exact .finish h <| .bind (h.readB2 _ _) fun _ => h.result _ _
  | shl _ _ _ | shr _ _ _ | bitlen _ _ =>
    exact .finish h <| .bind (h.readB _) fun _ => .bind rfl fun _ => h.result _ _
  | div _ _ _ | rem _ _ _ | mod _ _ _ =>
    exact .finish h <| .bind (h.readB2 _ _) fun _ => .bind rfl fun _ => h.result _ _
  | px _ _ | py _ _ => exact .finish h <| .bind (h.readP _) fun _ => .bind rfl fun _ => h.result _ _
  | modinv _ _ _ =>
    exact .finish h <| .bind (h.readB2 _ _) fun _ => .bind rfl fun _ => .bind rfl fun _ => h.result _ _
  | modexp _ _ _ _ =>
    exact .finish h <| .bind (h.readB2 _ _) fun _ => .bind (h.readB _) fun _ => .bind rfl fun _ =>
      .bind rfl fun _ => h.result _ _
  | cmp _ _ =>
    exact .finish h <| .bind (h.readB2 _ _) fun _ =>
      h.map (f := fun t => (t.setOrder _ _).nextPc) (fun _ _ _ => rfl) ⟨rfl, rfl⟩
  | bit _ _ =>
    exact .finish h <| .bind (h.readB2 _ _) fun _ => .bind rfl fun _ => .bind rfl fun _ => (h.setT _).nextPc
  | biti _ _ => exact .finish h <| .bind (h.readB _) fun _ => .bind rfl fun _ => (h.setT _).nextPc
  | pisinf _ => exact .finish h <| .bind (h.readP _) fun _ => (h.setT _).nextPc
  | verify _ _ _ =>
    exact .finish h <| .bind rfl fun _ => .bind (h.readP _) fun _ => .bind (h.readB _) fun _ =>
      .bind (h.readB _) fun _ => .bind (h.readB _) fun _ => (h.setT _).nextPc
  | pinf _ | pgen _ => exact (h.setP _ _).nextPc
  | pmk _ _ _ => exact .finish h <| .bind (h.readB2 _ _) fun _ => .bind rfl fun _ => (h.setP _ _).nextPc
  | padd _ _ _ =>
    exact .finish h <| .bind (h.readP _) fun _ => .bind (h.readP _) fun _ => (h.setP _ _).nextPc
  | pdbl _ _ => exact .finish h <| .bind (h.readP _) fun _ => (h.setP _ _).nextPc
  | pmul _ _ _ =>
    exact .finish h <| .bind (h.readB _) fun _ => .bind (h.readP _) fun _ => .bind rfl fun _ => (h.setP _ _).nextPc
  | recover _ _ _ =>
    exact .finish h <| .bind rfl fun _ => .bind (h.readB _) fun _ => .bind (h.readB _) fun _ =>
      .bind (h.readB _) fun _ => .bind (h.readB _) fun _ => .bind rfl fun _ => .bind rfl fun _ =>
        (h.setP _ _).nextPc
  | ldbe _ _ _ | ldle _ _ _ | digz _ _ _ => exact memReadThen_alike h fun _ _ _ ht => ht.result _ _
  | ldhex _ _ _ | lddec _ _ _ => exact loadString_alike h _
  | stbe _ _ _ | stle _ _ _ => exact storeInteger_alike h _
  | sthex _ _ _ | stdec _ _ _ => exact storeString_alike h _
  | sign a b' c lows => exact execSign_alike h a b' c lows

/-! ## The engine -/

theorem runStep_alike (h : SameButInvalid s (withContents b p s)) :
    AnswersAlike (runStep s) (runStep (withContents b p s)) := by
  unfold runStep
  cases hf : s.fetch with
  | none =>
    have hf' : (withContents b p s).fetch = none := State.fetch_eq_none.2 (State.fetch_eq_none (s := s).1 hf)
    rw [hf']
    exact h.raise _
  | some wt =>
    obtain ⟨w, t⟩ := wt
    obtain ⟨hf', ht⟩ : (withContents b p s).fetch = some (w, withContents b p t) ∧
        SameButInvalid t (withContents b p t) := by
      obtain ⟨hpc, ⟨hw, rfl⟩ | ⟨hw, rfl, rfl⟩⟩ := State.fetch_eq_some.1 hf
      · exact ⟨State.fetch_eq_some.2 ⟨hpc, .inl ⟨hw, rfl⟩⟩, h⟩
      · exact ⟨State.fetch_eq_some.2 ⟨hpc, .inr ⟨hw, rfl, rfl⟩⟩, h.useDraws 1⟩
    rw [hf']
    cases hd : decode w with
    | error _ =>
      simp only [hd]
      exact ht.raise _
    | ok i =>
      simp only [hd]
      exact exec_alike ht i

theorem engineStep_alike (h : SameButInvalid s (withContents b p s)) :
    AnswersAlike (engineStep s) (engineStep (withContents b p s)) := by
  have hrun : SameButInvalid { s with runState := .run } { withContents b p s with runState := .run } :=
    h.map (f := fun t => { t with runState := .run }) (fun _ _ _ => rfl) ⟨rfl, rfl⟩
  have hr : (withContents b p s).runState = s.runState := rfl
  have hl : (withContents b p s).resetLine = s.resetLine := rfl
  have hn : (withContents b p s).nonceValid = s.nonceValid := rfl
  unfold engineStep
  rw [hr, hl, hn]
  split
  · exact h
  · cases s.runState with
    | idle => exact h
    | run => exact runStep_alike h
    | nonceWait held =>
      show AnswersAlike (if s.nonceValid = true then _ else _) (if s.nonceValid = true then _ else _)
      split
      · exact exec_alike hrun _
      · exact h

/-! ## The host -/

/-- A host read sees no register's contents. -/
theorem hostRead_withContents (offset : Nat) (b : Vector Int 16) (p : Vector Point 8) (s : State) :
    (withContents b p s).hostRead offset = withContents b p (s.hostRead offset) := rfl

theorem csrWrite_withContents (offset : Nat) (u : Word) (b : Vector Int 16) (p : Vector Point 8) (s : State) :
    (withContents b p s).csrWrite offset u = withContents b p (s.csrWrite offset u) := by
  unfold State.csrWrite
  split
  case h_1 =>
    exact ite_commutes (c := s.busy = true) _
      (ite_commutes _ (ite_commutes (c := s.busy = true) _ rfl rfl) (ite_commutes _ rfl rfl))
      (ite_commutes _ rfl rfl)
  case h_2 | h_3 | h_4 | h_13 | h_14 => rfl
  all_goals exact ite_commutes (c := s.nonceValid = true) _ rfl rfl

/-- A host write neither sees nor changes a register's contents. -/
theorem hostWrite_withContents (offset : Nat) (u : Word) (b : Vector Int 16) (p : Vector Point 8) (s : State) :
    (withContents b p s).hostWrite offset u = withContents b p (s.hostWrite offset u) := by
  have hregion : (withContents b p s).hostRegion offset = s.hostRegion offset := rfl
  unfold State.hostWrite
  refine ite_commutes _ rfl ?_
  rw [hregion]
  cases s.hostRegion offset with
  | csr o => exact csrWrite_withContents o u b p s
  | dmem _ | imem _ => exact ite_commutes (c := s.busy = true) _ rfl rfl
  | unmapped => rfl

/-! ## The step -/

theorem takeTurn_alike (h : SameButInvalid s (withContents b p s)) (turn : Turn) :
    AnswersAlike (takeTurn turn s) (takeTurn turn (withContents b p s)) := by
  have access (offset : BitVec 18) (width : AccessWidth) {effect effect' : Nat → State}
      (he : ∀ o, SameButInvalid (effect o) (effect' o)) :
      AnswersAlike (hostAccess offset width effect) (hostAccess offset width effect') := by
    unfold hostAccess
    split
    · exact he _
    · rfl
  cases turn with
  | engine => exact engineStep_alike h
  | read offset width => exact access offset width fun o => h.map (hostRead_withContents o) ⟨rfl, rfl⟩
  | write offset width u =>
    refine access offset width fun o => h.map (hostWrite_withContents o u) ?_
    obtain ⟨-, -, hvb, -, hvp, -⟩ := (hostWrite_effect o u s).frame
    exact ⟨hvb, hvp⟩
  | assertReset => exact SameButInvalid.refl s.assertReset
  | releaseReset => exact h.map (f := State.releaseReset) (fun _ _ _ => rfl) ⟨rfl, rfl⟩

theorem step_alike (h : SameButInvalid s s') : AnswersAlike (step s) (step s') := by
  obtain ⟨b, p, rfl⟩ : ∃ b p, s' = withContents b p s := ⟨_, _, h.eq_withContents⟩
  have hin : (withContents b p s).inputs = s.inputs := rfl
  unfold step
  rw [hin]
  split
  · exact engineStep_alike h
  · rename_i turn rest _
    have hrest : SameButInvalid { s with inputs := rest } (withContents b p { s with inputs := rest }) :=
      h.map (f := fun t => { t with inputs := rest }) (fun _ _ _ => rfl) ⟨rfl, rfl⟩
    exact takeTurn_alike hrest turn

theorem AnswersAlike.next_left {r r' : Answer} {t : State} (h : AnswersAlike r r') (hr : r = .next t) :
    ∃ t', r' = .next t' ∧ SameButInvalid t t' := by
  subst hr
  cases r' with
  | next t' => exact ⟨t', rfl, h⟩
  | fault _ | refused _ => exact h.elim

theorem AnswersAlike.refused_left {r r' : Answer} {e : Refusal} (h : AnswersAlike r r') (hr : r = .refused e) :
    r' = .refused e := by
  subst hr
  cases r' with
  | refused e' => exact congrArg _ (Eq.symm h)
  | fault _ | next _ => exact h.elim

end Contents

/-- Settles O47: every turn takes two states that differ in invalid registers to answers that do. -/
theorem invalidContentsNeverMatter : Obligations.InvalidContentsNeverMatter := by
  unfold Obligations.InvalidContentsNeverMatter
  exact fun s s' h => ⟨fun _ ht => (step_alike h).next_left ht, fun _ hr => (step_alike h).refused_left hr⟩

end Sys2Proof.Machine
end

section
/-! SUPPORT. O39, O42, O43: the flags, PC and RUNSTATE after each effect of an instruction (10_state.md R27 to
R30). -/

namespace Sys2Proof.Machine

section Rules
variable {i : Instr} {s t : State}

/-! ## Flags (R27, R28) -/

/-- An instruction of the ZN list has no other destination. -/
theorem only_znDestination {a : BReg} (hi : znDestination i = some a) :
    pointDestination i = none ∧ writesT i = false ∧ storesAt i = none := by
  cases i <;> cases hi <;> exact ⟨rfl, rfl, rfl⟩

/-- Only an error entry and a result end an instruction of the ZN list. -/
theorem Effect.of_znDestination (h : Effect i s t) {a : BReg} (hi : znDestination i = some a) :
    (∃ k e, t = (s.useDraws k).raise e) ∨
      ∃ v k, s.fits v = true ∧ t = (((s.useDraws k).setB a v).setZN v).nextPc := by
  obtain ⟨hpoint, htest, hstore⟩ := only_znDestination hi
  cases h with
  | error k e => exact .inl ⟨k, e, rfl⟩
  | result a' v k ha hv =>
    obtain rfl : a' = a := Option.some.inj (ha.symm.trans hi)
    exact .inr ⟨v, k, hv, rfl⟩
  | point _ _ h => cases hpoint.symm.trans h
  | test _ h => cases htest.symm.trans h
  | store _ _ h => cases hstore.symm.trans h
  | signError _ _ _ _ h | order _ _ _ _ h | signed _ _ _ _ _ _ _ h | waits _ _ _ _ h | retries _ _ _ _ h
  | halts h =>
    subst h
    cases hi
  | passes h => obtain rfl | ⟨_, _, rfl, -⟩ := h <;> cases hi
  | jumps _ h => obtain rfl | ⟨_, rfl, -⟩ := h <;> cases hi

theorem Effect.flags_of_err (h : Effect i s t) (hs : s.err = false) (ht : t.err = true) : t.flags = s.flags := by
  cases h with
  | error | signError => rfl
  | _ => exact absurd (hs.symm.trans ht) Bool.false_ne_true

theorem Effect.zn_of_znDestination (h : Effect i s t) {a : BReg} (hi : znDestination i = some a)
    (ht : t.err = false) :
    t.vb[a] = true ∧ t.flags.z = decide (t.b[a] = 0) ∧ t.flags.n = decide (t.b[a] < 0) := by
  obtain ⟨k, e, rfl⟩ | ⟨v, k, -, rfl⟩ := h.of_znDestination hi
  · cases ht
  · have hb : ((((s.useDraws k).setB a v).setZN v).nextPc).b[a] = v := Vector.getElem_set_self a.isLt
    rw [hb]
    exact ⟨Vector.getElem_set_self a.isLt, rfl, rfl⟩

theorem Effect.keeps_zn (h : Effect i s t) (hi : znDestination i = none) :
    t.flags.z = s.flags.z ∧ t.flags.n = s.flags.n := by
  cases h with
  | result a v k ha => exact absurd (ha.symm.trans hi) (by simp)
  | _ => exact ⟨rfl, rfl⟩

theorem Effect.keeps_order (h : Effect i s t) (hi : ∀ b c, i ≠ .cmp b c) :
    t.flags.lt = s.flags.lt ∧ t.flags.eq = s.flags.eq ∧ t.flags.gt = s.flags.gt := by
  cases h with
  | order b c _ _ hcmp => exact absurd hcmp (hi b c)
  | _ => exact ⟨rfl, rfl, rfl⟩

theorem Effect.keeps_t (h : Effect i s t) (hi : writesT i = false) : t.flags.t = s.flags.t := by
  cases h with
  | test _ ht => exact absurd (hi.symm.trans ht) Bool.false_ne_true
  | _ => rfl

/-! ## PC (R29) -/

theorem Effect.pc_of_err (h : Effect i s t) (hs : s.err = false) (ht : t.err = true) :
    t.pc = s.pc ∧ t.errPc = t.pc := by
  cases h with
  | error | signError => exact ⟨rfl, rfl⟩
  | _ => exact absurd (hs.symm.trans ht) Bool.false_ne_true

/-- The instructions that, where they complete, go on to the next one. -/
def goesOn : Instr → Bool
  | .jmp .. | .br .. | .halt | .sign .. => false
  | _ => true

theorem Effect.pc_of_goesOn (h : Effect i s t) (hi : goesOn i = true) (ht : t.err = false) : t.pc = s.pc + 1 := by
  cases h with
  | error => cases ht
  | result | point | test | order | store | passes => rfl
  | signError _ _ _ _ hp | signed _ _ _ _ _ _ _ hp | waits _ _ _ _ hp | retries _ _ _ _ hp | halts hp =>
    subst hp
    cases hi
  | jumps _ hp =>
    obtain rfl | ⟨_, rfl, -⟩ := hp <;> cases hi

/-- All that a SIGN can do: an error entry, its results with the nonce consumed, or the wait for a nonce
(45_ecdsa.md R121, R122). -/
theorem Effect.of_sign {a b c : BReg} {lows : Bool} (h : Effect (.sign a b c lows) s t) :
    (t.runState = .idle ∧ t.err = true) ∨
      (t.runState = s.runState ∧ t.pc = s.pc + 1 ∧ t.nonceValid = false) ∨
      (t.runState = .nonceWait ⟨a, b, c, lows⟩ ∧ t.pc = s.pc ∧ t.nonceValid = false) := by
  cases h with
  | error | signError => exact .inl ⟨rfl, rfl⟩
  | signed => exact .inr (.inl ⟨rfl, rfl, rfl⟩)
  | waits _ _ _ _ hi hn =>
    cases hi
    exact .inr (.inr ⟨rfl, rfl, hn⟩)
  | retries _ _ _ _ hi =>
    cases hi
    exact .inr (.inr ⟨rfl, rfl, rfl⟩)
  | result _ _ _ hi | point _ _ hi | test _ hi | order _ _ _ _ hi | store _ _ hi | halts hi => cases hi
  | passes hi => obtain hi | ⟨_, _, hi, -⟩ := hi <;> cases hi
  | jumps _ hi => obtain hi | ⟨_, hi, -⟩ := hi <;> cases hi

/-- BR tests what its condition's code names (46_sequencer.md R128). -/
theorem conditionHolds_iff {f : Flags} {cond : Cond} :
    ConditionHolds f cond.code.toNat ↔ f.holds cond = true := by
  cases cond <;> simp [ConditionHolds, Flags.holds, Cond.code]

/-! ## RUNSTATE (R30) -/

theorem busy_eq_false_iff : s.busy = false ↔ s.runState = .idle := by
  unfold State.busy
  split <;> simp_all

/-- What an instruction executed in RUN makes of RUNSTATE. -/
theorem Effect.runState_eq (h : Effect i s t) (hr : s.runState = .run) :
    (t.runState = .idle ∧ (t.done = true ∨ t.err = true)) ∨ t.runState = .run ∨
      ∃ held, t.runState = .nonceWait held ∧ t.nonceValid = false := by
  cases h with
  | error | signError => exact .inl ⟨rfl, .inr rfl⟩
  | halts => exact .inl ⟨rfl, .inl rfl⟩
  | waits a b c lows _ hn => exact .inr (.inr ⟨⟨a, b, c, lows⟩, rfl, hn⟩)
  | retries a b c lows => exact .inr (.inr ⟨⟨a, b, c, lows⟩, rfl, rfl⟩)
  | _ => exact .inr (.inl hr)

/-- What a step of the engine makes of RUNSTATE. -/
theorem EngineStep.runState_eq (h : EngineStep s t) :
    t.runState = s.runState ∨ (t.runState = .idle ∧ (t.done = true ∨ t.err = true)) ∨
      (s.runState = .run ∧ ∃ held, t.runState = .nonceWait held ∧ t.nonceValid = false) ∨
      ∃ held, s.runState = .nonceWait held ∧ t.runState = .run ∧ s.nonceValid = true ∧ t.nonceValid = false := by
  cases h with
  | holds ht => exact .inl (ht ▸ rfl)
  | fetchError k e _ _ ht =>
    subst ht
    exact .inr (.inl ⟨rfl, .inr rfl⟩)
  | executes k i _ hr hx =>
    obtain hend | hrun | ⟨held, hwait, hn⟩ := (exec_effect hx).runState_eq hr
    · exact .inr (.inl hend)
    · exact .inl (hrun.trans hr.symm)
    · exact .inr (.inr (.inl ⟨hr, held, hwait, hn⟩))
  | resumes held _ hr hn hx =>
    obtain ⟨hidle, herr⟩ | ⟨hrun, -, hc⟩ | ⟨hwait, -⟩ := (exec_effect hx).of_sign
    · exact .inr (.inl ⟨hidle, .inr herr⟩)
    · exact .inr (.inr (.inr ⟨held, hr, hrun, hn, hc⟩))
    · exact .inl (hwait.trans hr.symm)

end Rules

/-- Settles O39, flag by flag over the effects an instruction can have. -/
theorem flagWriters : Obligations.FlagWriters := by
  unfold Obligations.FlagWriters
  intro i s t hs h
  have he := exec_effect h
  exact ⟨he.flags_of_err hs, fun _ => he.zn_of_znDestination, he.keeps_zn, he.keeps_order, he.keeps_t⟩

/-- Settles O42: JMP, HALT, BR and SIGN by their own rules, every other instruction by its effects. -/
theorem programCounterRule : Obligations.ProgramCounterRule := by
  unfold Obligations.ProgramCounterRule
  intro i s t hs h
  have he := exec_effect h
  refine ⟨he.pc_of_err hs, fun ht => ?_⟩
  cases i with
  | jmp target | halt =>
    obtain rfl := Host.Outcome.next.inj h
    rfl
  | br cond target =>
    obtain rfl := Host.Outcome.next.inj h
    simp only [conditionHolds_iff]
    cases hc : s.flags.holds cond
    · exact .inr ⟨Bool.false_ne_true, rfl⟩
    · exact .inl ⟨rfl, rfl⟩
  | sign a b c lows =>
    obtain ⟨-, herr⟩ | ⟨hrun, hpc, -⟩ | ⟨hwait, hpc, -⟩ := he.of_sign
    · cases ht.symm.trans herr
    · exact .inr ⟨hrun, hpc⟩
    · exact .inl ⟨hwait, hpc⟩
  | _ => exact he.pc_of_goesOn rfl ht

/-- Settles O43, by the turns a step can be: the host's START and ABORT, reset, and the engine's own ends. -/
theorem runStateTransitions : Obligations.RunStateTransitions := by
  unfold Obligations.RunStateTransitions
  intro s t _ hstep hne
  cases step_effect hstep with
  | engine he =>
    obtain hsame | ⟨hidle, hend⟩ | hwait | hgo := he.runState_eq
    · exact absurd hsame hne
    · exact .inl ⟨hidle, hend.imp_right .inl⟩
    · exact .inr (.inr (.inl hwait))
    · exact .inr (.inr (.inr hgo))
  | read offset rest _ ht => exact absurd (ht ▸ rfl) hne
  | write offset u rest hin _ ht =>
    have hw := ht ▸ hostWrite_effect offset.toNat u s.advance
    cases hw with
    | start ho hu hb =>
      obtain rfl : offset = 0x10 := BitVec.eq_of_toNat_eq ho
      exact .inr (.inl ⟨busy_eq_false_iff.1 hb, rfl, rfl, u, rest, hin, hu⟩)
    | abort => exact .inl ⟨rfl, .inr (.inl rfl)⟩
    | _ => exact absurd rfl hne
  | assertReset rest hin ht =>
    subst ht
    exact .inl ⟨rfl, .inr (.inr ⟨rest, hin⟩)⟩
  | releaseReset rest _ ht => exact absurd (ht ▸ rfl) hne

end Sys2Proof.Machine
end

section
/-! SUPPORT. O52 to O55 and O57: the host's turn on a CSR (10_state.md R31 to R46), and the bits its words show. -/

namespace Sys2Proof.Machine

section Csr
variable {s : State}

/-! ## The turn -/

theorem hostRegion_csr {offset : Nat} (ho : offset < 0x100) : s.hostRegion offset = .csr offset := if_pos ho

theorem hostWrite_csr (hl : s.resetLine = false) {offset : Nat} (ho : offset < 0x100) (u : Word) :
    s.hostWrite offset u = s.csrWrite offset u := by
  rw [State.hostWrite, hl, hostRegion_csr ho]
  rfl

theorem hostReadValue_csr (hl : s.resetLine = false) {offset : Nat} (ho : offset < 0x100) :
    s.hostReadValue offset = s.csrRead offset := by
  rw [State.hostReadValue, hl, hostRegion_csr ho]
  rfl

/-- A host write of a CSR, whatever the engine does. -/
theorem step_csrWrite (hl : s.resetLine = false) {offset : BitVec 18} (ho : offset.toNat < 0x100)
    (h4 : offset.toNat % 4 = 0) (u : Word) :
    step (facingWrite offset u s) = .next (s.csrWrite offset.toNat u) := by
  rw [step_facingWrite h4, hostWrite_csr hl ho]

/-- A host read of a CSR. -/
theorem step_csrRead (hl : s.resetLine = false) {offset : BitVec 18} (ho : offset.toNat < 0x100)
    (h4 : offset.toNat % 4 = 0) :
    step (facing (.read offset .word) s) = .next (gaveHost (s.csrRead offset.toNat) s) := by
  rw [step_facingRead h4, hostReadValue_csr hl ho]

/-! ## CTRL (R35) -/

theorem writeCtrl_idle (hb : s.busy = false) (u : Word) :
    s.writeCtrl u = if u.getLsbD 0 then s.start else s := by
  rw [State.writeCtrl, hb]
  rfl

theorem writeCtrl_busy (hb : s.busy = true) (u : Word) :
    s.writeCtrl u =
      if u.getLsbD 1 then s.raise .aborted else if u.getLsbD 0 then s.protocolError else s := by
  rw [State.writeCtrl, hb, State.abort, hb]
  rfl

/-! ## STATUS (R36) -/

theorem nonceReq_iff : s.nonceReq = true ↔ ∃ held, s.runState = .nonceWait held := by
  unfold State.nonceReq
  split <;> simp_all

/-- STATUS, bit by bit from the top. -/
theorem status_eq_concat :
    s.status = (((((0#27).concat s.hwErr).concat s.nonceReq).concat s.err).concat s.done).concat s.busy := rfl

theorem status_lt : s.status.toNat < 32 := by
  have h := s.hwErr.toNat_le
  have h₁ := s.nonceReq.toNat_le
  have h₂ := s.err.toNat_le
  have h₃ := s.done.toNat_le
  have h₄ := s.busy.toNat_le
  simp only [status_eq_concat, BitVec.toNat_concat, BitVec.toNat_zero]
  omega

theorem status_bits :
    s.status.getLsbD 0 = s.busy ∧ s.status.getLsbD 1 = s.done ∧ s.status.getLsbD 2 = s.err ∧
      s.status.getLsbD 3 = s.nonceReq ∧ s.status.getLsbD 4 = s.hwErr := by
  simp [status_eq_concat]

/-! ## CONFIG0 and CONFIG1 (R33, R34) -/

/-- The number two fields make. -/
theorem toNat_append_eq {m n : Nat} (x : BitVec m) (y : BitVec n) :
    (x ++ y).toNat = x.toNat * 2 ^ n + y.toNat := by
  rw [BitVec.toNat_append, ← Nat.shiftLeft_add_eq_or_of_lt y.isLt, Nat.shiftLeft_eq]

theorem config0_toNat (hL : s.build.Legal) :
    s.config0.toNat = s.build.maxBits + s.build.digitBits * 2 ^ 16 := by
  have hm := hL.maxBits_range
  have hd := hL.digitBits_legal
  rw [State.config0, toNat_append_eq, toNat_append_eq, BitVec.toNat_ofNat, BitVec.toNat_ofNat, BitVec.toNat_ofNat]
  omega

theorem config1_toNat (hL : s.build.Legal) :
    s.config1.toNat = s.build.imemWords + s.build.dmemBytes * 2 ^ 16 := by
  have hi := hL.imemWords_range
  have hd := hL.dmemBytes_range
  rw [State.config1, toNat_append_eq, BitVec.toNat_ofNat, BitVec.toNat_ofNat]
  omega

/-! ## FLAGS and VALID (R42, R44) -/

/-- FLAGS, bit by bit from the top. -/
theorem flags_eq_concat (f : Flags) :
    f.bits = (((((BitVec.ofBool f.t).concat f.gt).concat f.eq).concat f.lt).concat f.n).concat f.z := rfl

theorem flags_bits (f : Flags) :
    f.bits.getLsbD 0 = f.z ∧ f.bits.getLsbD 1 = f.n ∧ f.bits.getLsbD 2 = f.lt ∧ f.bits.getLsbD 3 = f.eq ∧
      f.bits.getLsbD 4 = f.gt ∧ f.bits.getLsbD 5 = f.t := by
  simp [flags_eq_concat]

theorem validBits_lt (l : List Bool) : validBits l < 2 ^ l.length := by
  induction l with
  | nil => decide
  | cons v l ih =>
    have h : validBits (v :: l) = v.toNat + 2 * validBits l := rfl
    have hv := v.toNat_le
    rw [h, List.length_cons, Nat.pow_succ]
    omega

/-- Bit i is register i's valid bit. -/
theorem validBits_testBit (l : List Bool) (i : Nat) (hi : i < l.length) : (validBits l).testBit i = l[i] := by
  induction l generalizing i with
  | nil => simp at hi
  | cons v l ih =>
    have h : validBits (v :: l) = 2 * validBits l + v.toNat := Nat.add_comm _ _
    cases i with
    | zero => cases v <;> simp [h, Nat.testBit_zero]
    | succ i =>
      have hd : validBits (v :: l) / 2 = validBits l := by
        have := v.toNat_le
        cases v <;> simp at * <;> omega
      rw [Nat.testBit_succ, hd]
      exact ih i _

theorem validWord_toNat :
    s.validWord.toNat = 2 ^ 16 * validBits s.vp.toList + validBits s.vb.toList := by
  have hp := validBits_lt s.vp.toList
  have hb := validBits_lt s.vb.toList
  rw [Vector.length_toList] at hp hb
  rw [State.validWord, toNat_append_eq, toNat_append_eq, BitVec.toNat_ofNat, BitVec.toNat_ofNat, BitVec.toNat_ofNat]
  omega

theorem validWord_lt : s.validWord.toNat < 2 ^ 24 := by
  have hp := validBits_lt s.vp.toList
  have hb := validBits_lt s.vb.toList
  rw [Vector.length_toList] at hp hb
  rw [validWord_toNat]
  omega

theorem validWord_bigInt (r : BReg) : s.validWord.getLsbD r.val = s.vb[r] := by
  have hlt : r.val < s.vb.toList.length := by simp
  rw [BitVec.getLsbD, validWord_toNat, Nat.testBit_two_pow_mul_add _ (by simpa using validBits_lt s.vb.toList),
    if_pos r.isLt, validBits_testBit _ _ hlt]
  exact Vector.getElem_toList _

theorem validWord_point (r : PReg) : s.validWord.getLsbD (16 + r.val) = s.vp[r] := by
  have hlt : r.val < s.vp.toList.length := by simp
  rw [BitVec.getLsbD, validWord_toNat, Nat.testBit_two_pow_mul_add _ (by simpa using validBits_lt s.vb.toList),
    if_neg (by omega), Nat.add_sub_cancel_left, validBits_testBit _ _ hlt]
  exact Vector.getElem_toList _

/-! ## Reads while IDLE, and the nonce words -/

theorem exactWhileIdle_idle (hb : s.busy = false) (k : Nat) (exact : Word) : s.exactWhileIdle k exact = exact := by
  rw [State.exactWhileIdle, hb]
  rfl

/-- A field that is a word's low bits (10_state.md R37, R38). -/
theorem extractLow_eq_ofNat (u : Word) (n : Nat) : u.extractLsb' 0 n = BitVec.ofNat n u.toNat :=
  BitVec.eq_of_toNat_eq (by simp)

theorem writeNonceWord_free (hv : s.nonceValid = false) (i : Fin 8) (u : Word) :
    s.writeNonceWord i u = { s with nonceW := s.nonceW.set i.val u i.isLt } := if_neg (by simp [hv])

theorem writeNonceWord_held (hv : s.nonceValid = true) (i : Fin 8) (u : Word) :
    s.writeNonceWord i u = s.protocolError := if_pos hv

theorem csrWrite_nonceWord (i : Fin 8) (u : Word) :
    s.csrWrite (0x40 + 4 * i.val) u = s.writeNonceWord i u := by
  fin_cases i <;> rfl

theorem csrRead_nonceWord (i : Fin 8) : s.csrRead (0x40 + 4 * i.val) = 0 := by
  fin_cases i <;> rfl

end Csr

/-- Settles O52, by what CTRL does while IDLE and while BUSY. -/
theorem startAndAbort : Obligations.StartAndAbort := by
  unfold Obligations.StartAndAbort
  intro s u hl
  have hw : step (facingWrite 0x10 u s) = .next (s.writeCtrl u) := step_csrWrite hl (by decide) (by decide) u
  rw [hw]
  refine ⟨fun hb h0 => ?_, fun hb h1 => ?_, fun hb h1 h0 => ?_, fun h h0 => ?_,
    step_csrRead hl (by decide) (by decide)⟩
  · rw [writeCtrl_idle hb, h0]
    rfl
  · rw [writeCtrl_busy hb, h1]
    rfl
  · rw [writeCtrl_busy hb, h1, h0]
    rfl
  · cases hb : s.busy with
    | false =>
      rw [writeCtrl_idle hb, h0]
      rfl
    | true =>
      have h1 : u.getLsbD 1 = false := h.resolve_left (by simp [hb])
      rw [writeCtrl_busy hb, h1, h0]
      rfl

/-- Settles O53, by the writes of the three CSRs and STATUS's bits. -/
theorem statusAndEnables : Obligations.StatusAndEnables := by
  unfold Obligations.StatusAndEnables
  intro s u hl
  obtain ⟨hbusy, hdone, herr, hreq, hhw⟩ := status_bits (s := s)
  have hirq : step (facingWrite 0x18 u s) = .next { s with irqEn := u.extractLsb' 0 3 } :=
    step_csrWrite hl (by decide) (by decide) u
  have hstart : step (facingWrite 0x1C u s) = .next { s with startPc := u.extractLsb' 0 16 } :=
    step_csrWrite hl (by decide) (by decide) u
  rw [extractLow_eq_ofNat] at hirq hstart
  refine ⟨step_csrWrite hl (by decide) (by decide) u, hirq, hstart, s.status,
    step_csrRead hl (by decide) (by decide), status_lt, hbusy, hdone, herr, ?_, hhw, ?_, ?_⟩
  · rw [hreq, nonceReq_iff]
  · rw [BitVec.ofNat_toNat]
    exact step_csrRead hl (by decide) (by decide)
  · rw [BitVec.ofNat_toNat]
    exact step_csrRead hl (by decide) (by decide)

/-- Settles O54, by the numbers the fields of CONFIG0 and CONFIG1 make. -/
theorem identityRegisters : Obligations.IdentityRegisters := by
  unfold Obligations.IdentityRegisters
  intro s hl hL
  refine ⟨⟨idWord, s.config0, s.config1, step_csrRead hl (by decide) (by decide),
    step_csrRead hl (by decide) (by decide), step_csrRead hl (by decide) (by decide), rfl, config0_toNat hL,
    config1_toNat hL⟩, fun u => ⟨?_, ?_, ?_⟩⟩
  all_goals exact step_csrWrite hl (by decide) (by decide) u

/-- Settles O55, by the reads while IDLE and the bits of FLAGS and VALID. -/
theorem resultRegisters : Obligations.ResultRegisters := by
  unfold Obligations.ResultRegisters
  intro s hl
  have read (offset : BitVec 18) (ho : offset.toNat < 0x100) (h4 : offset.toNat % 4 = 0) (v : Word)
      (hv : s.csrRead offset.toNat = v) : step (facing (.read offset .word) s) = .next (gaveHost v s) :=
    hv ▸ step_csrRead hl ho h4
  refine ⟨fun hb => ⟨BitVec.setWidth 32 s.flags.bits, s.validWord, ?_⟩, ?_, ?_, fun u o ho => ?_⟩
  · obtain ⟨hz, hn, hlt, heq, hgt, ht⟩ := flags_bits s.flags
    have flag {i : Nat} (hi : i < 32) :
        (BitVec.setWidth 32 s.flags.bits).getLsbD i = s.flags.bits.getLsbD i := by
      simp [hi]
    refine ⟨?_, ?_, ?_, ?_, ?_, ?_, ?_, ?_, ?_, ?_, ?_, validWord_lt, validWord_bigInt, validWord_point⟩
    · rw [BitVec.ofNat_toNat]
      exact read 0x20 (by decide) (by decide) _ (exactWhileIdle_idle hb _ _)
    · exact read 0x2C (by decide) (by decide) _ (exactWhileIdle_idle hb _ _)
    · rw [BitVec.ofNat_toNat]
      exact read 0x30 (by decide) (by decide) _ (exactWhileIdle_idle hb _ _)
    · exact read 0x34 (by decide) (by decide) _ (exactWhileIdle_idle hb _ _)
    · rw [BitVec.toNat_setWidth_of_le (by decide)]
      exact s.flags.bits.isLt
    · rw [flag (by decide), hz]
    · rw [flag (by decide), hn]
    · rw [flag (by decide), hlt]
    · rw [flag (by decide), heq]
    · rw [flag (by decide), hgt]
    · rw [flag (by decide), ht]
  · rw [BitVec.ofNat_toNat]
    exact read 0x24 (by decide) (by decide) _ rfl
  · rw [BitVec.ofNat_toNat]
    exact read 0x28 (by decide) (by decide) _ rfl
  · simp only [List.mem_cons, List.not_mem_nil, or_false] at ho
    obtain rfl | rfl | rfl | rfl | rfl | rfl := ho
    all_goals exact step_csrWrite hl (by decide) (by decide) u

/-- Settles O57, by NONCE_W[i] for both values of NONCE_VALID, and NONCE_CTRL. -/
theorem noncePort : Obligations.NoncePort := by
  unfold Obligations.NoncePort
  intro s u hl
  have hctrl : step (facingWrite 0x60 u s) = .next (s.writeNonceCtrl u) :=
    step_csrWrite hl (by decide) (by decide) u
  refine ⟨fun i => ?_, fun h0 => ?_, fun h0 => ?_, ?_⟩
  · have hoff : (BitVec.ofNat 18 (0x40 + 4 * i.val)).toNat = 0x40 + 4 * i.val := by
      rw [BitVec.toNat_ofNat]
      omega
    have hw := step_csrWrite hl (offset := BitVec.ofNat 18 (0x40 + 4 * i.val)) (by omega) (by omega) u
    have hr := step_csrRead hl (offset := BitVec.ofNat 18 (0x40 + 4 * i.val)) (by omega) (by omega)
    rw [hoff, csrWrite_nonceWord] at hw
    rw [hoff, csrRead_nonceWord] at hr
    refine ⟨fun hv => ?_, fun hv => ?_, hr⟩
    · rw [hw, writeNonceWord_free hv]
    · rw [hw, writeNonceWord_held hv]
      rfl
  · rw [hctrl, State.writeNonceCtrl, h0, Bool.or_true]
  · rw [hctrl, State.writeNonceCtrl, h0, Bool.or_false]
  · have hread : s.csrRead 0x60 = BitVec.ofNat 32 s.nonceValid.toNat := by
      cases hv : s.nonceValid <;> simp [State.csrRead, hv]
    exact hread ▸ step_csrRead hl (by decide) (by decide)

end Sys2Proof.Machine
end

section
/-! SUPPORT. O41, 20_memory.md R48, R49: what each effect of an instruction leaves of the memories, the CSRs and the
nonce port. -/

namespace Sys2Proof.Machine

section Frame
variable {i : Instr} {s t : State}

/-- No instruction touches what the host sets, HWERR, the schedule or the record of reads. -/
theorem Effect.keeps_hostFields (h : Effect i s t) :
    t.startPc = s.startPc ∧ t.irqEn = s.irqEn ∧ t.hwErr = s.hwErr ∧ t.inputs = s.inputs ∧
      t.reads = s.reads := by
  cases h <;> exact ⟨rfl, rfl, rfl, rfl, rfl⟩

/-- Only SIGN consumes a nonce (45_ecdsa.md R121). -/
theorem Effect.keeps_noncePort (h : Effect i s t) (hi : ∀ a b c lows, i ≠ .sign a b c lows) :
    t.nonceW = s.nonceW ∧ t.nonceValid = s.nonceValid := by
  cases h with
  | signError a b c lows hs | signed a b c lows _ _ _ hs | retries a b c lows hs => exact absurd hs (hi a b c lows)
  | _ => exact ⟨rfl, rfl⟩

/-- DMEM and SLEN are kept, or the instruction is a store that completes: bytes inside DMEM at its address. -/
theorem Effect.store_or_keeps_dmem (h : Effect i s t) :
    (t.dmem = s.dmem ∧ t.slen = s.slen) ∨
      ∃ addr bytes, storesAt i = some addr ∧ addr + bytes.length ≤ s.build.dmemBytes ∧
        t = stored (writeBytes s.dmem addr bytes) bytes.length s := by
  cases h with
  | store addr bytes hi hr => exact .inr ⟨addr, bytes, hi, hr, rfl⟩
  | _ => exact .inl ⟨rfl, rfl⟩

/-- On a legal build SLEN holds the length of every store inside DMEM (log 22). -/
theorem stored_slen {m : List Host.Cell} {L : Nat} (hL : s.build.Legal) (hr : L ≤ s.build.dmemBytes) :
    (stored m L s).slen.toNat = L := by
  have hd := hL.dmemBytes_range
  exact Nat.mod_eq_of_lt (by omega)

end Frame

/-- Settles O41, by the effects an instruction can have, a completed store being the one that writes DMEM. -/
theorem memoryAndPortFrame : Obligations.MemoryAndPortFrame := by
  unfold Obligations.MemoryAndPortFrame
  intro i s t h
  have he := exec_effect h
  obtain ⟨hbuild, himem, hline⟩ := he.frame
  obtain ⟨hpc, hirq, hhw, hin, hreads⟩ := he.keeps_hostFields
  refine ⟨hbuild, himem, hpc, hirq, hhw, hline, hin, hreads, he.keeps_noncePort, fun hi => ?_, fun addr hi hL => ?_⟩
  · exact he.store_or_keeps_dmem.resolve_right fun ⟨_, _, ha, _⟩ => absurd (ha.symm.trans hi) (by simp)
  · obtain hkeep | ⟨addr', bytes, ha, hr, rfl⟩ := he.store_or_keeps_dmem
    · exact .inl hkeep
    · obtain rfl : addr' = addr := Option.some.inj (ha.symm.trans hi)
      rw [stored_slen hL (by omega)]
      refine .inr ⟨rfl, fun _ => read_writeBytes_outside, hr, fun j hj => ?_⟩
      exact Option.isSome_iff_exists.2 ⟨_, read_writeBytes_inside hj⟩

end Sys2Proof.Machine
end

section
/-! SUPPORT. O6, 20_memory.md R56: a step of the engine in RUN is a fetch and what the word fetched stands for. -/

namespace Sys2Proof.Machine

section Fetch
variable {s s' t : State}

theorem EngineMoves.eq_advance (h : EngineMoves s s') : s' = s.advance := by
  obtain ⟨hin, rfl⟩ | ⟨rest, hin, rfl⟩ := h
  · exact (State.advance_of_nil hin).symm
  · exact (State.advance_of_cons hin).symm

/-- Where the engine moves next, the step is the engine's (log 6). -/
theorem EngineMoves.step_eq (h : EngineMoves s s') : step s = engineStep s' := by
  unfold step
  obtain ⟨hin, rfl⟩ | ⟨rest, hin, rfl⟩ := h
  · rw [hin]
  · rw [hin]
    rfl

theorem engineStep_run (hl : s.resetLine = false) (hr : s.runState = .run) : engineStep s = runStep s := by
  simp [engineStep, hl, hr]

theorem runStep_pastImem (h : s.build.imemWords ≤ s.pc.toNat) : runStep s = .next (stopped 0x02 s) := by
  rw [runStep, State.fetch_eq_none.2 h]
  rfl

/-- A fetched word is executed where it decodes, and is ILLEGAL_INSTRUCTION where it does not (30_encoding.md R75). -/
theorem runStep_fetched {w : Word} (h : s.fetch = some (w, t)) :
    (∀ i, decode w = .ok i → runStep s = exec i t) ∧
      (∀ e, decode w = .error e → runStep s = .next (stopped 0x01 t)) := by
  refine ⟨fun i hd => ?_, fun e hd => ?_⟩
  · simp only [runStep, h, hd]
  · simp only [runStep, h, hd, raise_eq_stopped, EngineError.code]

end Fetch

/-- Settles O6, by the fetch past IMEM, of a written word, and of a word nobody wrote. -/
theorem stepRunsTheFetchedInstruction : Obligations.StepRunsTheFetchedInstruction := by
  unfold Obligations.StepRunsTheFetchedInstruction
  intro s s' hm hl hr
  have hstep := hm.step_eq
  obtain rfl := hm.eq_advance
  rw [hstep, engineStep_run (s := s.advance) hl hr]
  refine ⟨fun hpc => runStep_pastImem (s := s.advance) hpc, fun hpc => ⟨fun w hw => ?_, fun hnone => ?_⟩⟩
  · exact runStep_fetched (State.fetch_eq_some.2 ⟨hpc, .inl ⟨hw, rfl⟩⟩)
  · exact ⟨Config.drawWord s.draws, runStep_fetched (State.fetch_eq_some.2 ⟨hpc, .inr ⟨hnone, rfl, rfl⟩⟩)⟩

end Sys2Proof.Machine
end

section
/-! SUPPORT. O58 to O60: the host's turn on the windows and on the offsets that reach nothing (20_memory.md R51 to
R55). -/

namespace Sys2Proof.Machine

section Windows
variable {s : State}

/-! ## The bytes of a word (R53) -/

/-- The little-endian form of a byte string's value is the string. -/
theorem leBytes_leValue (l : List Byte) : leBytes l.length (leValue l) = l := by
  induction l with
  | nil => rfl
  | cons x l ih =>
    have hv : leValue (x :: l) = x.toNat + leValue l * 256 := rfl
    have hx := x.isLt
    have hhead : byteOf (leValue (x :: l)) 0 = x := BitVec.eq_of_toNat_eq (by rw [byteOf_toNat, hv]; omega)
    have htail : leValue (x :: l) / 256 = leValue l := by omega
    rw [List.length_cons, leBytes_succ, hhead, htail, ih]

theorem getElem_leBytes {L x j : Nat} (h : j < (leBytes L x).length) : (leBytes L x)[j] = byteOf x j := by
  simp [leBytes]

theorem byteOf_leValue {l : List Byte} {j : Nat} (h : j < l.length) : byteOf (leValue l) j = l[j] := by
  rw [← getElem_leBytes (L := l.length) (by simpa using h)]
  simp only [leBytes_leValue]

theorem extractByte_eq_byteOf (u : Word) (j : Nat) : u.extractLsb' (8 * j) 8 = byteOf u.toNat j :=
  BitVec.eq_of_toNat_eq (by rw [BitVec.extractLsb'_toNat, Nat.shiftRight_eq_div_pow, byteOf_toNat])

theorem leBytes_toNat_eq_extracts (u : Word) :
    leBytes 4 u.toNat =
      [u.extractLsb' 0 8, u.extractLsb' 8 8, u.extractLsb' 16 8, u.extractLsb' 24 8] :=
  (List.map_congr_left fun j _ => extractByte_eq_byteOf u j).symm

/-! ## DMEM words (R53, R50) -/

theorem dmemBytes_mayRead (a n : Nat) : MayRead s.dmem a (s.dmemBytes a n) := by
  intro j _ x hx
  simp only [State.dmemBytes, List.getElem_map, List.getElem_range]
  exact State.dmemByte_written hx

/-- Where every byte is written, a read draws none. -/
theorem dmemBytes_of_holds {a : Nat} {bytes : List Byte} (h : Holds s.dmem a bytes) :
    s.dmemBytes a bytes.length = bytes :=
  List.ext_getElem (s.dmemBytes_length a bytes.length) fun j hj hj' => dmemBytes_mayRead a _ j hj _ (h j hj')

theorem dmemWord_toNat (a : Nat) : (s.dmemWord a).toNat = leValue (s.dmemBytes a 4) := by
  have hlt := leValue_lt (s.dmemBytes a 4)
  rw [State.dmemBytes_length] at hlt
  exact Nat.mod_eq_of_lt hlt

/-- Each written byte stands in its place of the word. -/
theorem dmemWord_byte {a j : Nat} {x : Byte} (hj : j < 4) (hx : Cells.read s.dmem (a + j) = some x) :
    (s.dmemWord a).extractLsb' (8 * j) 8 = x := by
  have hlen : j < (s.dmemBytes a 4).length := by simpa using hj
  rw [extractByte_eq_byteOf, dmemWord_toNat, byteOf_leValue hlen]
  exact dmemBytes_mayRead a 4 j hlen x hx

/-- Four written bytes give their little-endian word. -/
theorem dmemWord_of_holds {a : Nat} {u : Word} (h : Holds s.dmem a (leBytes 4 u.toNat)) : s.dmemWord a = u := by
  have hbytes := dmemBytes_of_holds h
  rw [leBytes_length] at hbytes
  refine BitVec.eq_of_toNat_eq ?_
  rw [dmemWord_toNat, hbytes, leValue_leBytes]
  exact Nat.mod_eq_of_lt u.isLt

theorem imemWord_written {i : Nat} {u : Word} (h : Cells.read s.imem i = some u) : s.imemWord i = u := by
  rw [State.imemWord, h]
  rfl

/-! ## The regions past the CSRs (R51) -/

theorem hostRegion_dmem {a : Nat} (ha : a < s.build.dmemBytes) (ha' : a < 0x1000) :
    s.hostRegion (0x8000 + a) = .dmem a := by
  rw [State.hostRegion, if_neg (by omega), if_pos (by omega), Nat.add_sub_cancel_left]

theorem hostRegion_imem {i : Nat} (hi : i < s.build.imemWords) (hi' : i < 0x4000) :
    s.hostRegion (0x10000 + 4 * i) = .imem i := by
  have hword : (0x10000 + 4 * i - 0x10000) / 4 = i := by omega
  rw [State.hostRegion, if_neg (by omega), if_neg (by omega), hword, if_pos (by omega)]

theorem hostRegion_unmapped {offset : Nat} (hc : 0x100 ≤ offset)
    (hd : ¬ (0x8000 ≤ offset ∧ offset < 0x9000 ∧ offset - 0x8000 < s.build.dmemBytes))
    (hi : ¬ (0x10000 ≤ offset ∧ offset < 0x20000 ∧ (offset - 0x10000) / 4 < s.build.imemWords)) :
    s.hostRegion offset = .unmapped := by
  rw [State.hostRegion, if_neg (by omega), if_neg hd, if_neg hi]

/-! ## A turn on the DMEM window (R53, R55) -/

theorem step_dmemWrite (hl : s.resetLine = false) {offset : BitVec 18} {w : Nat}
    (ho : offset.toNat = 0x8000 + 4 * w) (hw : 4 * w < s.build.dmemBytes) (hw' : 4 * w < 0x1000) (u : Word) :
    step (facingWrite offset u s) = .next (s.dmemWindowWrite (4 * w) u) := by
  rw [step_facingWrite (by omega), ho, State.hostWrite, hl, hostRegion_dmem hw hw']
  rfl

theorem step_dmemRead (hl : s.resetLine = false) {offset : BitVec 18} {w : Nat}
    (ho : offset.toNat = 0x8000 + 4 * w) (hw : 4 * w < s.build.dmemBytes) (hw' : 4 * w < 0x1000) :
    step (facing (.read offset .word) s) =
      .next (gaveHost (if s.busy then Config.drawWord s.draws else s.dmemWord (4 * w)) s) := by
  rw [step_facingRead (by omega), ho, State.hostReadValue, hl, hostRegion_dmem hw hw']
  rfl

theorem dmemWindowWrite_idle (hb : s.busy = false) (a : Nat) (u : Word) :
    s.dmemWindowWrite a u = { s with dmem := writeBytes s.dmem a (leBytes 4 u.toNat) } := by
  rw [State.dmemWindowWrite, hb]
  rfl

theorem dmemWindowWrite_busy (hb : s.busy = true) (a : Nat) (u : Word) :
    s.dmemWindowWrite a u = s.protocolError := if_pos hb

/-! ## A turn on the IMEM window (R54, R55) -/

theorem step_imemWrite (hl : s.resetLine = false) {offset : BitVec 18} {i : Nat}
    (ho : offset.toNat = 0x10000 + 4 * i) (hi : i < s.build.imemWords) (hi' : i < 0x4000) (u : Word) :
    step (facingWrite offset u s) = .next (s.imemWindowWrite i u) := by
  rw [step_facingWrite (by omega), ho, State.hostWrite, hl, hostRegion_imem hi hi']
  rfl

theorem step_imemRead (hl : s.resetLine = false) {offset : BitVec 18} {i : Nat}
    (ho : offset.toNat = 0x10000 + 4 * i) (hi : i < s.build.imemWords) (hi' : i < 0x4000) :
    step (facing (.read offset .word) s) =
      .next (gaveHost (if s.busy then Config.drawWord s.draws else s.imemWord i) s) := by
  rw [step_facingRead (by omega), ho, State.hostReadValue, hl, hostRegion_imem hi hi']
  rfl

theorem imemWindowWrite_idle (hb : s.busy = false) (i : Nat) (u : Word) :
    s.imemWindowWrite i u = { s with imem := Cells.write s.imem i u } := by
  rw [State.imemWindowWrite, hb]
  rfl

theorem imemWindowWrite_busy (hb : s.busy = true) (i : Nat) (u : Word) :
    s.imemWindowWrite i u = s.protocolError := if_pos hb

/-! ## Offsets that reach nothing (R51, 10_state.md R31) -/

theorem hostWrite_unmapped {offset : Nat} (h : s.hostRegion offset = .unmapped) (u : Word) :
    s.hostWrite offset u = s := by
  rw [State.hostWrite, h]
  exact ite_self s

theorem hostReadValue_unmapped {offset : Nat} (h : s.hostRegion offset = .unmapped) :
    s.hostReadValue offset = 0 := by
  rw [State.hostReadValue, h]
  exact ite_self 0

/-- The CSR offsets R31's table does not list; the space of the CSRs ends at 0x100. -/
def UnlistedCsr (offset : Nat) : Prop := offset ∈ [0x0C, 0x38, 0x3C] ∨ 0x64 ≤ offset

theorem csrWrite_unlisted {offset : Nat} (h : UnlistedCsr offset) (u : Word) : s.csrWrite offset u = s := by
  unfold State.csrWrite
  split
  case h_14 => rfl
  all_goals exact absurd h (by simp [UnlistedCsr])

theorem csrRead_unlisted {offset : Nat} (h : UnlistedCsr offset) : s.csrRead offset = 0 := by
  unfold State.csrRead
  split
  case h_14 => rfl
  all_goals exact absurd h (by simp [UnlistedCsr])

end Windows

/-- Settles O58, by the bytes a write stores while IDLE and the word a read makes of them. -/
theorem dmemWindow : Obligations.DmemWindow := by
  unfold Obligations.DmemWindow
  intro s w u offset hl hw hw' hoff
  have ho : offset.toNat = 0x8000 + 4 * w := by
    rw [hoff]
    exact Nat.mod_eq_of_lt (by omega)
  rw [step_dmemWrite hl ho hw hw', step_dmemRead hl ho hw hw', ← leBytes_toNat_eq_extracts]
  refine ⟨fun hb => ⟨writeBytes s.dmem (4 * w) (leBytes 4 u.toNat), ?_, fun _ => ?_, fun j hj => ?_⟩,
    fun hb => ?_, fun hb hholds => ?_, _, rfl, fun hb j hj x hx => ?_⟩
  · rw [dmemWindowWrite_idle hb]
  · rw [← leBytes_length 4 u.toNat]
    exact read_writeBytes_outside
  · rw [extractByte_eq_byteOf, read_writeBytes_inside (by simpa using hj), getElem_leBytes]
  · rw [dmemWindowWrite_busy hb]
    rfl
  · rw [hb, dmemWord_of_holds hholds]
    rfl
  · rw [hb]
    exact dmemWord_byte hj hx

/-- Settles O59, by one write and one read of the list of written words. -/
theorem imemWindow : Obligations.ImemWindow := by
  unfold Obligations.ImemWindow
  intro s i u offset hl hi hi' hoff
  have ho : offset.toNat = 0x10000 + 4 * i := by
    rw [hoff]
    exact Nat.mod_eq_of_lt (by omega)
  rw [step_imemWrite hl ho hi hi', step_imemRead hl ho hi hi']
  refine ⟨fun hb => ⟨Cells.write s.imem i u, ?_, Cells.read_write_same s.imem i u, fun _ =>
    Cells.read_write_other s.imem u⟩, fun hb => ?_, fun hb hread => ?_, _, rfl⟩
  · rw [imemWindowWrite_idle hb]
  · rw [imemWindowWrite_busy hb]
    rfl
  · rw [hb, imemWord_written hread]
    rfl

/-- Settles O60: below 0x100 the offset is an unlisted CSR, from there on it is in no region. -/
theorem unmappedOffsets : Obligations.UnmappedOffsets := by
  unfold Obligations.UnmappedOffsets
  intro s offset u hl h4 hoff
  rw [step_facingWrite h4, step_facingRead h4]
  by_cases hc : offset.toNat < 0x100
  · have hcsr : UnlistedCsr offset.toNat := hoff.imp_right fun h => by omega
    rw [hostWrite_csr hl hc, hostReadValue_csr hl hc, csrWrite_unlisted hcsr, csrRead_unlisted hcsr]
    exact ⟨rfl, rfl⟩
  · simp only [List.mem_cons, List.not_mem_nil, or_false] at hoff
    have hregion : s.hostRegion offset.toNat = .unmapped :=
      hostRegion_unmapped (by omega) (by omega) (by omega)
    rw [hostWrite_unmapped hregion, hostReadValue_unmapped hregion]
    exact ⟨rfl, rfl⟩

end Sys2Proof.Machine
end

section
/-! SUPPORT. O1 to O4, 30_encoding.md R69 to R76: the decoder finds the one row a word matches; there a word decodes to
an instruction exactly where it is the instruction's word; and R76's list says where no instruction is left. -/

namespace Sys2Proof

section Encoding
variable {w : Word} {i : Instr} {r : OpcodeRow}

/-! ## The opcode map (R74, R75) -/

theorem opcodeMap_nodup : (opcodeMap.map fun r => opField r.pattern).Nodup := by decide +kernel

/-- Every row fixes the whole opcode byte. -/
theorem opField_mask (h : r ∈ opcodeMap) : opField r.mask = 0xFF#8 := by
  have hall : ∀ x ∈ opcodeMap.map fun r => opField r.mask, x = 0xFF#8 := by decide +kernel
  exact hall _ (List.mem_map_of_mem h)

theorem opField_and (u v : Word) : opField (u &&& v) = opField u &&& opField v := BitVec.extractLsb'_and

/-- A word that matches a row has its opcode byte. -/
theorem opField_of_match (hr : r ∈ opcodeMap) (hm : w &&& r.mask = r.pattern) : opField r.pattern = opField w := by
  rw [← hm, opField_and, opField_mask hr]
  exact BitVec.and_allOnes

theorem opcodeRow?_eq_some {op : BitVec 8} :
    opcodeRow? op = some r ↔ r ∈ opcodeMap ∧ opField r.pattern = op := by
  refine ⟨fun h => ⟨List.mem_of_find?_eq_some h, by simpa using List.find?_some h⟩, fun ⟨hr, hop⟩ => ?_⟩
  obtain ⟨r', hr'⟩ := Option.isSome_iff_exists.1
    (List.find?_isSome.2 ⟨r, hr, beq_iff_eq.2 hop⟩ : (opcodeRow? op).isSome)
  have hop' : opField r'.pattern = op := by simpa using List.find?_some hr'
  have hrow : r' = r :=
    List.inj_on_of_nodup_map opcodeMap_nodup (List.mem_of_find?_eq_some hr') hr (hop'.trans hop.symm)
  exact hr'.trans (congrArg some hrow)

/-- All that decoding to an instruction takes, by the row the decoder finds (R75). -/
theorem decode_eq_ok :
    decode w = .ok i ↔ ∃ r, opcodeRow? (opField w) = some r ∧ w &&& r.mask = r.pattern ∧ r.instr w = some i := by
  unfold decode
  cases opcodeRow? (opField w) with
  | none => simp
  | some r =>
    by_cases hm : w &&& r.mask = r.pattern
    · cases hi : r.instr w <;> simp [hm, hi]
    · simp [hm]

/-- The row found is the only one the word can match. -/
theorem decode_eq_ok_iff_row :
    decode w = .ok i ↔ ∃ r ∈ opcodeMap, w &&& r.mask = r.pattern ∧ r.instr w = some i := by
  rw [decode_eq_ok]
  refine exists_congr fun r => ⟨fun ⟨hr, hm, hi⟩ => ⟨(opcodeRow?_eq_some.1 hr).1, hm, hi⟩, fun ⟨hr, hm, hi⟩ => ?_⟩
  exact ⟨opcodeRow?_eq_some.2 ⟨hr, opField_of_match hr hm⟩, hm, hi⟩

/-! ## A word, field by field (R69) -/

theorem eq_rFormat_iff {op f : BitVec 8} {a b c d : BitVec 4} :
    w = rFormat op a b c d f ↔ w.extractLsb' 24 8 = op ∧ w.extractLsb' 20 4 = a ∧ w.extractLsb' 16 4 = b ∧
      w.extractLsb' 12 4 = c ∧ w.extractLsb' 8 4 = d ∧ w.extractLsb' 0 8 = f := by
  constructor
  · rintro rfl
    refine ⟨opField_rFormat .., extractA_rFormat .., extractB_rFormat .., extractC_rFormat .., extractD_rFormat .., ?_⟩
    ext j hj
    simp [rFormat]
    grind
  · rintro ⟨rfl, rfl, rfl, rfl, rfl, rfl⟩
    ext j hj
    simp [rFormat]
    grind

theorem eq_iFormat_iff {op : BitVec 8} {a b : BitVec 4} {imm : BitVec 16} :
    w = iFormat op a b imm ↔ w.extractLsb' 24 8 = op ∧ w.extractLsb' 20 4 = a ∧ w.extractLsb' 16 4 = b ∧
      fieldImm w = imm := by
  constructor
  · rintro rfl
    exact ⟨opField_iFormat .., extractA_iFormat .., extractB_iFormat .., fieldImm_iFormat ..⟩
  · rintro ⟨rfl, rfl, rfl, rfl⟩
    ext j hj
    simp [iFormat, fieldImm]
    grind

theorem eq_mFormat_iff {op len : BitVec 8} {a : BitVec 4} {addr : BitVec 12} :
    w = mFormat op a addr len ↔ w.extractLsb' 24 8 = op ∧ w.extractLsb' 20 4 = a ∧ fieldAddr w = addr ∧
      fieldLen w = len := by
  constructor
  · rintro rfl
    exact ⟨opField_mFormat .., extractA_mFormat .., fieldAddr_mFormat .., fieldLen_mFormat ..⟩
  · rintro ⟨rfl, rfl, rfl, rfl⟩
    ext j hj
    simp [mFormat, fieldAddr, fieldLen]
    grind

/-- A mask acts on each field of the R format. -/
theorem match_iff_rFields {m p : Word} : w &&& m = p ↔
    w.extractLsb' 24 8 &&& m.extractLsb' 24 8 = p.extractLsb' 24 8 ∧
    w.extractLsb' 20 4 &&& m.extractLsb' 20 4 = p.extractLsb' 20 4 ∧
    w.extractLsb' 16 4 &&& m.extractLsb' 16 4 = p.extractLsb' 16 4 ∧
    w.extractLsb' 12 4 &&& m.extractLsb' 12 4 = p.extractLsb' 12 4 ∧
    w.extractLsb' 8 4 &&& m.extractLsb' 8 4 = p.extractLsb' 8 4 ∧
    w.extractLsb' 0 8 &&& m.extractLsb' 0 8 = p.extractLsb' 0 8 := by
  simp only [← BitVec.extractLsb'_and]
  rw [← eq_rFormat_iff, ← eq_rFormat_iff.2 ⟨rfl, rfl, rfl, rfl, rfl, rfl⟩]

/-! ## Masks and operands, field by field (R70 to R73) -/

@[simp] theorem and_fifteen (x : BitVec 4) : x &&& 15#4 = x := BitVec.and_allOnes

@[simp] theorem and_byte (x : BitVec 8) : x &&& 255#8 = x := BitVec.and_allOnes

theorem eq_bField_iff {x : BitVec 4} {a : BReg} : x = bField a ↔ x.toFin = a := by
  revert x a
  decide

/-- A point register's field is a must-be-zero bit and three bits of register number (R71). -/
theorem eq_pField_iff {start : Nat} {a : PReg} :
    w.extractLsb' start 4 = pField a ↔ w.extractLsb' start 4 &&& 8#4 = 0#4 ∧ (w.extractLsb' start 3).toFin = a := by
  have hlow : w.extractLsb' start 3 = (w.extractLsb' start 4).extractLsb' 0 3 := by
    ext j hj
    simp
    omega
  rw [hlow]
  generalize w.extractLsb' start 4 = x
  revert x a
  decide

@[simp] theorem extractA_eq_bField {a : BReg} : w.extractLsb' 20 4 = bField a ↔ fieldA w = a := eq_bField_iff
@[simp] theorem extractB_eq_bField {a : BReg} : w.extractLsb' 16 4 = bField a ↔ fieldB w = a := eq_bField_iff
@[simp] theorem extractC_eq_bField {a : BReg} : w.extractLsb' 12 4 = bField a ↔ fieldC w = a := eq_bField_iff
@[simp] theorem extractD_eq_bField {a : BReg} : w.extractLsb' 8 4 = bField a ↔ fieldD w = a := eq_bField_iff

@[simp] theorem extractA_eq_pField {a : PReg} :
    w.extractLsb' 20 4 = pField a ↔ w.extractLsb' 20 4 &&& 8#4 = 0#4 ∧ fieldPA w = a := eq_pField_iff
@[simp] theorem extractB_eq_pField {a : PReg} :
    w.extractLsb' 16 4 = pField a ↔ w.extractLsb' 16 4 &&& 8#4 = 0#4 ∧ fieldPB w = a := eq_pField_iff
@[simp] theorem extractC_eq_pField {a : PReg} :
    w.extractLsb' 12 4 = pField a ↔ w.extractLsb' 12 4 &&& 8#4 = 0#4 ∧ fieldPC w = a := eq_pField_iff

/-- SIGN's f field holds LOWS and seven must-be-zero bits (R72). -/
@[simp] theorem extractF_eq_lows {lows : Bool} :
    w.extractLsb' 0 8 = (if lows then 1#8 else 0#8) ↔ w.extractLsb' 0 8 &&& 254#8 = 0#8 ∧ fieldLows w = lows := by
  have hbit : fieldLows w = (w.extractLsb' 0 8).getLsbD 0 := by simp [fieldLows]
  rw [hbit]
  generalize w.extractLsb' 0 8 = x
  revert x lows
  decide

@[simp] theorem condOf?_eq_some {c : BitVec 4} {k : Cond} : condOf? c = some k ↔ c = k.code := by
  cases k <;> (revert c; decide)

@[simp] theorem curveConstOf?_eq_some {c : BitVec 16} {k : CurveConst} : curveConstOf? c = some k ↔ c = k.code := by
  refine ⟨fun h => ?_, fun h => ?_⟩
  · unfold curveConstOf? at h
    split at h <;> cases h <;> exact BitVec.eq_of_toNat_eq ‹_›
  · rw [h]
    cases k <;> rfl

theorem onlyWellFormed_eq_some {j : Instr} : onlyWellFormed i = some j ↔ j.wellFormed = true ∧ i = j := by
  simp only [onlyWellFormed, Option.ite_none_right_eq_some, Option.some.injEq]
  exact and_congr_left fun h => by rw [h]

/-! ## Decoding and the encoder -/

/-- Only the row of i's opcode can give i. There the row's fixed bits together with its operands (R75) are the fields
of i's word (R69), up to their order. -/
theorem decode_eq_ok_iff_encode : decode w = .ok i ↔ i.wellFormed = true ∧ w = encode i := by
  rw [decode_eq_ok_iff_row]
  simp only [opcodeMap, sequencerRows, bigIntRows, modularAndConversionRows, pointAndEcdsaRows, List.cons_append,
    List.nil_append, List.exists_mem_cons_iff, List.not_mem_nil, false_and, exists_false, or_false,
    Option.some.injEq, Option.map_eq_some_iff, onlyWellFormed_eq_some]
  cases i <;> simp only [reduceCtorEq, and_false, exists_false, false_or, or_false]
  case nop | halt =>
    simp [Instr.wellFormed, encode, eq_rFormat_iff, match_iff_rFields, -BitVec.ne_zero_of_msb_true]
  case jmp | br =>
    simp [Instr.wellFormed, encode, bFormat_eq_iFormat, eq_iFormat_iff, match_iff_rFields,
      -BitVec.ne_zero_of_msb_true]
    tauto
  case ldi | ldc | biti =>
    simp [Instr.wellFormed, encode, eq_iFormat_iff, match_iff_rFields, -BitVec.ne_zero_of_msb_true]
    tauto
  case shl | shr =>
    simp [Instr.wellFormed, encode, eq_iFormat_iff, match_iff_rFields, -BitVec.ne_zero_of_msb_true]
  case ldbe | ldle | stbe | stle | ldhex | sthex | lddec | stdec | digz =>
    simp [Instr.wellFormed, encode, eq_mFormat_iff, match_iff_rFields, -BitVec.ne_zero_of_msb_true]
  all_goals -- the R format with operands
    simp [Instr.wellFormed, encode, eq_rFormat_iff, match_iff_rFields, -BitVec.ne_zero_of_msb_true]
    tauto

/-! ## Words that are no instruction (R76) -/

/-- What holds of a row with the opcode op holds of the row found for it. -/
theorem exists_row_iff {op : BitVec 8} {P : OpcodeRow → Prop} (h : opcodeRow? op = some r) :
    (∃ r' ∈ opcodeMap, op = opField r'.pattern ∧ P r') ↔ P r := by
  obtain ⟨hr, hop⟩ := opcodeRow?_eq_some.1 h
  refine ⟨fun ⟨r', hr', hop', hP⟩ => ?_, fun hP => ⟨r, hr, hop.symm, hP⟩⟩
  obtain rfl := Option.some.inj (h.symm.trans (opcodeRow?_eq_some.2 ⟨hr', hop'.symm⟩))
  exact hP

/-- A word fails to decode in the three ways of DecodeError, and in no other. -/
theorem decode_ne_ok_iff : (∀ i, decode w ≠ .ok i) ↔ opcodeRow? (opField w) = none ∨
    (∃ r ∈ opcodeMap, opField w = opField r.pattern ∧ w &&& r.mask ≠ r.pattern) ∨
    ∃ r ∈ opcodeMap, opField w = opField r.pattern ∧ r.instr w = none := by
  simp only [ne_eq, decode_eq_ok]
  cases hrow : opcodeRow? (opField w) with
  | none => simp
  | some r =>
    rw [exists_row_iff hrow, exists_row_iff hrow]
    by_cases hm : w &&& r.mask = r.pattern <;> simp [hm, Option.eq_none_iff_forall_ne_some]

theorem unlistedOpcode_iff (op : BitVec 8) : Machine.UnlistedOpcode op.toNat ↔ opcodeRow? op = none := by
  unfold Machine.UnlistedOpcode
  revert op
  decide +kernel

theorem opField_toNat (w : Word) : (opField w).toNat = w.toNat / 2 ^ 24 := by
  have := w.isLt
  simp [opField]
  omega

theorem opField_eq_iff {u : Word} : opField w = opField u ↔ w.toNat / 2 ^ 24 = u.toNat / 2 ^ 24 := by
  rw [← BitVec.toNat_inj, opField_toNat, opField_toNat]

theorem extractLsb'_four_toNat (start : Nat) : (w.extractLsb' start 4).toNat = w.toNat / 2 ^ start % 16 := by
  rw [BitVec.extractLsb'_toNat, Nat.shiftRight_eq_div_pow]

theorem fieldA_val : (fieldA w).val = w.toNat / 2 ^ 20 % 16 := extractLsb'_four_toNat 20

theorem fieldB_val : (fieldB w).val = w.toNat / 2 ^ 16 % 16 := extractLsb'_four_toNat 16

theorem fieldImm_toNat : (fieldImm w).toNat = w.toNat % 2 ^ 16 := BitVec.extractLsb'_toNat ..

theorem condOf?_eq_none {c : BitVec 4} : condOf? c = none ↔ 12 ≤ c.toNat := by
  revert c
  decide

theorem curveConstOf?_eq_none {c : BitVec 16} : curveConstOf? c = none ↔ 5 < c.toNat := by
  unfold curveConstOf?
  split <;> simp only [reduceCtorEq, false_iff, true_iff, imp_false] at * <;> omega

theorem onlyWellFormed_eq_none : onlyWellFormed i = none ↔ i.wellFormed = false := by simp [onlyWellFormed]

theorem groupFits_eq_false {a : BReg} {k : Nat} (hk : k ≤ 16) : groupFits a k = false ↔ 16 - k < a.val := by
  simp [groupFits]
  omega

/-- Five rows have a constraint, and it fails in the ranges R76 gives. -/
theorem exists_row_constraint_fails_iff :
    (∃ r ∈ opcodeMap, opField w = opField r.pattern ∧ r.instr w = none) ↔
      (w.toNat / 2 ^ 24 = 0x03 ∧ 12 ≤ w.toNat / 2 ^ 20 % 16) ∨
      (w.toNat / 2 ^ 24 = 0x12 ∧ 5 < w.toNat % 2 ^ 16) ∨
      (w.toNat / 2 ^ 24 = 0x61 ∧ 13 < w.toNat / 2 ^ 20 % 16) ∨
      (w.toNat / 2 ^ 24 = 0x62 ∧ 14 < w.toNat / 2 ^ 16 % 16) ∨
      (w.toNat / 2 ^ 24 = 0x63 ∧ 13 < w.toNat / 2 ^ 16 % 16) := by
  simp only [opcodeMap, sequencerRows, bigIntRows, modularAndConversionRows, pointAndEcdsaRows, List.cons_append,
    List.nil_append, List.exists_mem_cons_iff, List.not_mem_nil, false_and, exists_false, or_false, false_or,
    reduceCtorEq, and_false, Option.map_eq_none_iff, condOf?_eq_none, curveConstOf?_eq_none, onlyWellFormed_eq_none,
    Instr.wellFormed, groupFits_eq_false (k := 2) (by decide), groupFits_eq_false (k := 3) (by decide),
    opField_eq_iff, extractLsb'_four_toNat, fieldA_val, fieldB_val, fieldImm_toNat]
  rfl

/-- R76's list is the words that are no instruction. -/
theorem illegalWord_iff : Machine.IllegalWord w ↔ ∀ i, decode w ≠ .ok i := by
  rw [decode_ne_ok_iff, exists_row_constraint_fails_iff, ← unlistedOpcode_iff, opField_toNat]
  rfl

end Encoding

/-- Settles O1: a well-formed instruction's word decodes to it. -/
theorem decodeInvertsEncode : Obligations.DecodeInvertsEncode := by
  unfold Obligations.DecodeInvertsEncode
  exact fun i hi => decode_eq_ok_iff_encode.2 ⟨hi, rfl⟩

/-- Settles O2: a word that decodes is the word of a well-formed instruction. -/
theorem encodeInvertsDecode : Obligations.EncodeInvertsDecode := by
  unfold Obligations.EncodeInvertsDecode
  intro w i h
  obtain ⟨hi, hw⟩ := decode_eq_ok_iff_encode.1 h
  exact ⟨hi, hw.symm⟩

/-- Settles O3: a word has the opcode byte of every row it matches, and the opcode bytes are distinct. -/
theorem decodeFollowsTheOpcodeMap : Obligations.DecodeFollowsTheOpcodeMap := by
  unfold Obligations.DecodeFollowsTheOpcodeMap
  refine ⟨rfl, opcodeMap_nodup, ?_, fun w i => decode_eq_ok_iff_row⟩
  refine (List.pairwise_map.1 opcodeMap_nodup).imp_of_mem fun hr hr' hne w ⟨hm, hm'⟩ => hne ?_
  rw [opField_of_match hr hm, opField_of_match hr' hm']

/-- Settles O4, by R76's list and the step of the engine that fetches a word that does not decode (O6). -/
theorem illegalWordsStopTheEngine : Obligations.IllegalWordsStopTheEngine := by
  unfold Obligations.IllegalWordsStopTheEngine
  refine ⟨fun w => illegalWord_iff, fun s s' w hm hl hr hpc hw hill => ?_⟩
  obtain ⟨-, hfetch⟩ := Machine.stepRunsTheFetchedInstruction s s' hm hl hr
  obtain ⟨-, hstop⟩ := (hfetch hpc).1 w hw
  cases hd : decode w with
  | ok i => exact absurd hd (illegalWord_iff.1 hill i)
  | error e => exact hstop e hd

end Sys2Proof
end

section
/-! SUPPORT. O9 to O11, 40_bigint_arith.md R79 to R86: an instruction that begins with two BigInt sources stops on
an invalid one and goes on with their values otherwise. -/

namespace Sys2Proof.Machine

section TwoSources
variable {i : Instr} {s : State} {a b c : BReg}

/-! ## Two sources and a result -/

theorem finish_readB2_not_valid2 (h : ¬ Valid2 s b c) (rest : Int × Int → Result State) :
    finish s (s.readB2 b c >>= rest) = .next (stopped 0x03 s) := by
  rw [readB2_of_not_valid2 h]
  rfl

theorem finish_readB2_valid2 (h : Valid2 s b c) (rest : Int × Int → Result State) :
    finish s (s.readB2 b c >>= rest) = finish s (rest (s.b[b], s.b[c])) := by
  rw [readB2_of_valid2 h]
  rfl

theorem finish_result_ok {v : Int} (h : v.natAbs < 2 ^ s.build.maxBits) :
    finish s (s.result a v) = .next (wrote a v s) := by
  rw [result_ok h]
  rfl

theorem finish_result_overflow {v : Int} (h : 2 ^ s.build.maxBits ≤ v.natAbs) :
    finish s (s.result a v) = .next (stopped 0x05 s) := by
  rw [result_overflow h]
  rfl

/-! ## An exact operation (R79) -/

/-- All that an instruction that writes `f` of its two sources can do. -/
theorem exec_exact {f : Int × Int → Int}
    (hi : exec i s = finish s (s.readB2 b c >>= fun xy => s.result a (f xy))) :
    (¬ Valid2 s b c → exec i s = .next (stopped 0x03 s)) ∧
      (Valid2 s b c → 2 ^ s.build.maxBits ≤ (f (s.b[b], s.b[c])).natAbs → exec i s = .next (stopped 0x05 s)) ∧
      (Valid2 s b c → (f (s.b[b], s.b[c])).natAbs < 2 ^ s.build.maxBits →
        exec i s = .next (wrote a (f (s.b[b], s.b[c])) s)) := by
  rw [hi]
  refine ⟨fun hv => finish_readB2_not_valid2 hv _, fun hv hover => ?_, fun hv hfit => ?_⟩
  · rw [finish_readB2_valid2 hv, finish_result_overflow hover]
  · rw [finish_readB2_valid2 hv, finish_result_ok hfit]

/-! ## The divisions (R80) -/

/-- All that an instruction that writes `f` of a dividend and a divisor can do. -/
theorem exec_division {f : Int × Int → Int}
    (hi : exec i s = finish s (s.readB2 b c >>= fun xy =>
      require (decide (xy.2 ≠ 0)) .divisionByZero >>= fun _ => s.result a (f xy))) :
    (¬ Valid2 s b c → exec i s = .next (stopped 0x03 s)) ∧
      (Valid2 s b c → s.b[c] = 0 → exec i s = .next (stopped 0x11 s)) ∧
      (Valid2 s b c → s.b[c] ≠ 0 → (f (s.b[b], s.b[c])).natAbs < 2 ^ s.build.maxBits →
        exec i s = .next (wrote a (f (s.b[b], s.b[c])) s)) := by
  rw [hi]
  refine ⟨fun hv => finish_readB2_not_valid2 hv _, fun hv h0 => ?_, fun hv h0 hfit => ?_⟩
  · rw [finish_readB2_valid2 hv, require_eq_error.2 ⟨decide_eq_false (not_not_intro h0), rfl⟩]
    rfl
  · rw [finish_readB2_valid2 hv, (require_eq_ok (u := ())).2 (decide_eq_true h0)]
    exact finish_result_ok hfit

theorem natAbs_tmod_lt {x y : Int} (h : y ≠ 0) : (x.tmod y).natAbs < y.natAbs := by
  rw [Int.natAbs_tmod]
  exact Nat.mod_lt _ (Int.natAbs_pos.2 h)

theorem tmod_eq_zero_or_sign_eq (x y : Int) : x.tmod y = 0 ∨ (x.tmod y).sign = x.sign := by
  by_cases h : y ∣ x
  · exact .inl (Int.tmod_eq_zero_of_dvd h)
  · exact .inr (by rw [Int.sign_tmod, if_neg h])

/-! ## The comparator (R86) -/

theorem exactly_one_order (x y : Int) :
    (decide (x < y)).toNat + (decide (x = y)).toNat + (decide (x > y)).toNat = 1 := by
  obtain h | rfl | h := lt_trichotomy x y
  · simp [h, h.ne, h.le]
  · simp
  · simp [h, h.ne', h.le]

end TwoSources

/-- Settles O9: each of the three writes one exact operation of its two sources. -/
theorem addSubMulAreExact : Obligations.AddSubMulAreExact := by
  unfold Obligations.AddSubMulAreExact
  intro a b c s iv hiv
  simp only [List.mem_cons, List.not_mem_nil, or_false] at hiv
  obtain rfl | rfl | rfl := hiv
  · exact exec_exact (f := fun xy => xy.1 + xy.2) rfl
  · exact exec_exact (f := fun xy => xy.1 - xy.2) rfl
  · exact exec_exact (f := fun xy => xy.1 * xy.2) rfl

/-- Settles O10: neither the quotient, |q| ≤ |x|, nor the remainder, |r| < |y|, passes the capacity. -/
theorem divRemTruncate : Obligations.DivRemTruncate := by
  unfold Obligations.DivRemTruncate
  intro a b c s hfit
  obtain ⟨hdiv, hdiv0, hquot⟩ := exec_division (i := .div a b c) (f := fun xy => xy.1.tdiv xy.2) rfl
  obtain ⟨hrem, hrem0, hrest⟩ := exec_division (i := .rem a b c) (f := fun xy => xy.1.tmod xy.2) rfl
  refine ⟨fun hv => ⟨hdiv hv, hrem hv⟩, fun hv h0 => ⟨hdiv0 hv h0, hrem0 hv h0⟩, fun hv h0 => ?_⟩
  have hlt : (s.b[b].tmod s.b[c]).natAbs < s.b[c].natAbs := natAbs_tmod_lt h0
  exact ⟨s.b[b].tdiv s.b[c], s.b[b].tmod s.b[c], (Int.tdiv_mul_add_tmod _ _).symm, hlt,
    tmod_eq_zero_or_sign_eq _ _,
    hquot hv h0 ((Int.natAbs_tdiv_le_natAbs _ _).trans_lt (hfit b hv.1)),
    hrest hv h0 (hlt.trans (hfit c hv.2))⟩

/-- Settles O11, by the trichotomy of the integers. -/
theorem compareOrders : Obligations.CompareOrders := by
  unfold Obligations.CompareOrders
  intro b c s
  refine ⟨fun hv => finish_readB2_not_valid2 hv _, fun hv => ?_⟩
  exact ⟨_, _, _, decide_eq_true_iff, decide_eq_true_iff, decide_eq_true_iff,
    exactly_one_order s.b[b] s.b[c], finish_readB2_valid2 hv _⟩

end Sys2Proof.Machine
end

section
/-! SUPPORT. O12 to O14, 41_bigint_bitops.md R87 to R91: an instruction on non-negative sources stops on an invalid
one, then on a negative one, and goes on with their values otherwise. -/

namespace Sys2Proof.Machine

section NonNegativeSources
variable {i : Instr} {s : State} {a b : BReg} {x : Int}

/-! ## One source that must not be negative -/

theorem finish_readB_invalid (h : s.vb[b] = false) (rest : Int → Result State) :
    finish s (s.readB b >>= rest) = .next (stopped 0x03 s) := by
  rw [State.readB_invalid h]
  rfl

theorem finish_readB_valid (h : s.vb[b] = true) (rest : Int → Result State) :
    finish s (s.readB b >>= rest) = finish s (rest s.b[b]) := by
  rw [State.readB_valid h]
  rfl

theorem finish_requireNonNeg_neg (h : x < 0) (rest : Unit → Result State) :
    finish s (requireNonNeg x >>= rest) = .next (stopped 0x07 s) := by
  rw [requireNonNeg_neg h]
  rfl

theorem finish_requireNonNeg_ok (h : 0 ≤ x) (rest : Unit → Result State) :
    finish s (requireNonNeg x >>= rest) = finish s (rest ()) := by
  rw [requireNonNeg_ok h]
  rfl

/-- All that an instruction that goes on with one non-negative source can do. -/
theorem exec_nonNegative {rest : Int → Result State}
    (hi : exec i s = finish s (s.readB b >>= fun x => requireNonNeg x >>= fun _ => rest x)) :
    (s.vb[b] = false → exec i s = .next (stopped 0x03 s)) ∧
      (s.vb[b] = true → s.b[b] < 0 → exec i s = .next (stopped 0x07 s)) ∧
      (s.vb[b] = true → 0 ≤ s.b[b] → exec i s = finish s (rest s.b[b])) := by
  rw [hi]
  refine ⟨fun hv => finish_readB_invalid hv _, fun hv hneg => ?_, fun hv hpos => ?_⟩
  · rw [finish_readB_valid hv, finish_requireNonNeg_neg hneg]
  · rw [finish_readB_valid hv, finish_requireNonNeg_ok hpos]

/-! ## Shifts (R87, R88) -/

theorem natAbs_lt_two_pow {m : Nat} (h : 0 ≤ x) : x.natAbs < 2 ^ m ↔ x < 2 ^ m := by
  zify
  rw [abs_of_nonneg h]

/-! ## Bit length (R89) -/

theorem isBitLength_bitlen (v : Nat) : IsBitLength v (bitlen v) :=
  ⟨lt_two_pow_bitlen v, fun _ => bitlen_le⟩

/-- The bit length of a value within capacity is within capacity. -/
theorem bitlen_lt_two_pow {v m : Nat} (h : v < 2 ^ m) : bitlen v < 2 ^ m :=
  (bitlen_le h).trans_lt m.lt_two_pow_self

/-! ## Bits (R90, R91) -/

/-- A bit of a non-negative integer, by the integers' own division (00_scope.md R16). -/
theorem bitOf_toNat (h : 0 ≤ x) (k : Nat) : bitOf x.toNat k = decide (x / 2 ^ k % 2 = 1) := by
  lift x to Nat using h
  rw [bitOf_eq, Int.toNat_natCast]
  norm_cast

end NonNegativeSources

/-- Settles O13: x < 2^MAX_BITS, so its bit length, at most MAX_BITS, fits. -/
theorem bitlenIsLeast : Obligations.BitlenIsLeast := by
  unfold Obligations.BitlenIsLeast
  intro a b s hfit
  obtain ⟨hinvalid, hneg, hrun⟩ := exec_nonNegative (i := .bitlen a b) rfl
  refine ⟨hinvalid, hneg, fun hv hpos => ⟨_, isBitLength_bitlen s.b[b].toNat, ?_⟩⟩
  have hlt : s.b[b].toNat < 2 ^ s.build.maxBits := lt_of_le_of_lt (by omega) (hfit b hv)
  exact (hrun hv hpos).trans (finish_result_ok (bitlen_lt_two_pow hlt))

/-- Settles O14: BIT checks its two sources one after the other, BITI its one; both test `bitOf`. -/
theorem bitExtraction : Obligations.BitExtraction := by
  unfold Obligations.BitExtraction
  intro b c imm s
  obtain ⟨hinvalid, hneg, hrun⟩ := exec_nonNegative (i := .biti b imm) rfl
  refine ⟨fun hv => finish_readB2_not_valid2 hv _, fun hv hx => ?_, fun hv hx hc => ?_, hinvalid, hneg,
    fun hv hx => ?_⟩
  · refine (finish_readB2_valid2 hv _).trans ?_
    by_cases hb : s.b[b] < 0
    · exact finish_requireNonNeg_neg hb _
    · exact (finish_requireNonNeg_ok (not_lt.1 hb) _).trans (finish_requireNonNeg_neg (hx.resolve_left hb) _)
  · rw [← bitOf_toNat hx]
    exact (finish_readB2_valid2 hv _).trans ((finish_requireNonNeg_ok hx _).trans (finish_requireNonNeg_ok hc _))
  · rw [← bitOf_toNat hx]
    exact hrun hv hx

/-- Settles O12: SHL's capacity check is the one on the integer x·2^s; SHR's floor quotient is no larger than x. -/
theorem shiftsScale : Obligations.ShiftsScale := by
  unfold Obligations.ShiftsScale
  intro a b imm s hfit
  obtain ⟨hshl, hshlNeg, hshlRun⟩ := exec_nonNegative (i := .shl a b imm) rfl
  obtain ⟨hshr, hshrNeg, hshrRun⟩ := exec_nonNegative (i := .shr a b imm) rfl
  refine ⟨fun hv => ⟨hshl hv, hshr hv⟩, fun hv hx => ⟨hshlNeg hv hx, hshrNeg hv hx⟩, fun hv hx => ?_⟩
  rw [hshlRun hv hx, hshrRun hv hx]
  have hpow : (0 : Int) < 2 ^ imm.toNat := by positivity
  have hscaled := natAbs_lt_two_pow (m := s.build.maxBits) (mul_nonneg hx hpow.le)
  refine ⟨fun hover => finish_result_overflow (not_lt.1 (mt hscaled.1 hover.not_gt)),
    fun hlt => finish_result_ok (hscaled.2 hlt), s.b[b] / 2 ^ imm.toNat, ?_, ?_, ?_⟩
  · exact Int.ediv_mul_le _ hpow.ne'
  · exact Int.lt_ediv_add_one_mul_self _ hpow
  · exact finish_result_ok ((Int.natAbs_ediv_le_natAbs _ _).trans_lt (hfit b hv))

end Sys2Proof.Machine
end

section
/-! SUPPORT. O18, 42_bigint_conversion.md R92, R95, R96: the byte values the machine computes are the spec's sums, and
a load stops past DMEM and goes on with the bytes read otherwise. -/

namespace Sys2Proof.Machine

section ByteLoads
variable {i : Instr} {s t : State} {a : BReg} {addr : BitVec 12} {len : BitVec 8}

/-! ## The positional value of a byte string -/

/-- Byte by byte from the least significant, the sum of R96. -/
theorem littleEndian_eq_leValue (l : List Byte) : littleEndian l = leValue l := by
  induction l with
  | nil => rfl
  | cons x l ih =>
    have hsum : littleEndian (x :: l) = x.toNat + littleEndian l * 256 := by
      simp only [littleEndian, List.length_cons, Fin.sum_univ_succ, Finset.sum_mul]
      exact congr_arg₂ _ (by simp) (Finset.sum_congr rfl fun j _ => by simp; ring)
    rw [hsum, ih]
    rfl

theorem leValue_append (l : List Byte) (x : Byte) :
    leValue (l ++ [x]) = leValue l + x.toNat * 256 ^ l.length := by
  induction l with
  | nil => simp [leValue]
  | cons y l ih =>
    have hcons : ∀ l', leValue (y :: l') = y.toNat + leValue l' * 256 := fun _ => rfl
    rw [List.cons_append, hcons, hcons, ih, List.length_cons]
    ring

theorem beValue_cons (x : Byte) (l : List Byte) :
    beValue (x :: l) = x.toNat * 256 ^ l.length + beValue l := by
  simp [beValue_eq_reverse, leValue_append, add_comm]

/-- Byte by byte from the most significant, the sum of R95. -/
theorem bigEndian_eq_beValue (l : List Byte) : bigEndian l = beValue l := by
  induction l with
  | nil => rfl
  | cons x l ih =>
    have hsum : bigEndian (x :: l) = x.toNat * 256 ^ l.length + bigEndian l := by
      simp [bigEndian, Fin.sum_univ_succ, pow_mul, Nat.sub_sub, add_comm]
    rw [hsum, ih, beValue_cons]

theorem beValue_lt (l : List Byte) : beValue l < 256 ^ l.length := by
  simpa [beValue_eq_reverse] using leValue_lt l.reverse

/-! ## Loads -/

theorem memReadThen_pastDmem {m n : Nat} (h : s.build.dmemBytes < m + n)
    (rest : List Byte → State → Result State) : memReadThen m n s rest = .next (stopped 0x04 s) := by
  rw [memReadThen_eq, if_neg h.not_ge]
  rfl

theorem memReadThen_inDmem {m n : Nat} (h : m + n ≤ s.build.dmemBytes)
    (rest : List Byte → State → Result State) :
    memReadThen m n s rest = finish (drew n s) (rest (s.dmemBytes m n) (drew n s)) := by
  rw [memReadThen_eq, if_pos h]
  rfl

/-- All that an instruction that loads the value `f` of the bytes read can do. -/
theorem exec_byteLoad {f : List Byte → Nat} (hf : ∀ l, f l < 256 ^ l.length)
    (hi : exec i s = memReadThen addr.toNat len.toNat s fun bytes t => t.result a (f bytes : Nat)) :
    (s.build.dmemBytes < addr.toNat + len.toNat → exec i s = .next (stopped 0x04 s)) ∧
      (addr.toNat + len.toNat ≤ s.build.dmemBytes →
        LoadsValue i a (f (s.dmemBytes addr.toNat len.toNat)) s (drew len.toNat s) ∧
        (8 * len.toNat ≤ s.build.maxBits →
          exec i s = .next (wrote a (f (s.dmemBytes addr.toNat len.toNat)) (drew len.toNat s)))) := by
  rw [LoadsValue, hi]
  refine ⟨fun h => memReadThen_pastDmem h _, fun h => ?_⟩
  rw [memReadThen_inDmem h]
  refine ⟨⟨fun hv => finish_result_overflow hv, fun hv => finish_result_ok hv⟩,
    fun hbits => finish_result_ok ?_⟩
  calc f (s.dmemBytes addr.toNat len.toNat)
      < 256 ^ len.toNat := by simpa using hf (s.dmemBytes addr.toNat len.toNat)
    _ = 2 ^ (8 * len.toNat) := by rw [pow_mul]; rfl
    _ ≤ 2 ^ s.build.maxBits := Nat.pow_le_pow_right (by decide) hbits

end ByteLoads

/-- Settles O18: both loads write a value of the same bytes, which is below 256^len. -/
theorem byteLoads : Obligations.ByteLoads := by
  unfold Obligations.ByteLoads
  intro a addr len s
  obtain ⟨hbePast, hbe⟩ := exec_byteLoad (i := .ldbe a addr len) (s := s) beValue_lt rfl
  obtain ⟨hlePast, hle⟩ := exec_byteLoad (i := .ldle a addr len) (s := s) leValue_lt rfl
  simp only [bigEndian_eq_beValue, littleEndian_eq_leValue]
  refine ⟨fun h => ⟨hbePast h, hlePast h⟩, fun h => ?_⟩
  obtain ⟨hbeLoads, hbeFits⟩ := hbe h
  obtain ⟨hleLoads, hleFits⟩ := hle h
  exact ⟨s.dmemBytes addr.toNat len.toNat, s.dmemBytes_length _ _, dmemBytes_mayRead _ _, hbeLoads, hleLoads,
    fun hbits => ⟨hbeFits hbits, hleFits hbits⟩⟩

end Sys2Proof.Machine
end

section
/-! SUPPORT. O19, 42_bigint_conversion.md R97, R98 with 00_scope.md R17: the width of a byte store, its bytes, and what
a store leaves in DMEM. -/

namespace Sys2Proof.Machine

section ByteStores
variable {i : Instr} {s t : State} {a : BReg} {addr : BitVec 12} {len : BitVec 8}

/-! ## Checks and the write of a store -/

theorem finish_require_fails {p : Bool} {e : EngineError} (h : p = false) (rest : Unit → Result State) :
    finish s (require p e >>= rest) = .next (stopped e.code s) := by
  rw [h]
  rfl

theorem finish_require_holds {p : Bool} {e : EngineError} (h : p = true) (rest : Unit → Result State) :
    finish s (require p e >>= rest) = finish s (rest ()) := by
  rw [h]
  rfl

theorem inDmem_iff {m n : Nat} : s.inDmem m n = true ↔ m + n ≤ s.build.dmemBytes := by simp [State.inDmem]

theorem not_inDmem_iff {m n : Nat} : s.inDmem m n = false ↔ s.build.dmemBytes < m + n := by simp [State.inDmem]

/-- All that an instruction can do that stores these bytes in the n bytes at m where p holds. -/
theorem exec_store {m n : Nat} {p : Bool} {bytes : List Byte} (hp : p = true → bytes.length ≤ n)
    (hi : exec i s = finish s (require (s.inDmem m n) .memRange >>= fun _ => require p .bufOverflow >>= fun _ =>
      s.memWrite m bytes >>= fun u => pure (u.setSlen bytes.length).nextPc)) :
    (s.build.dmemBytes < m + n → exec i s = .next (stopped 0x04 s)) ∧
      (m + n ≤ s.build.dmemBytes → p = false → exec i s = .next (stopped 0x06 s)) ∧
      (m + n ≤ s.build.dmemBytes → p = true →
        exec i s = .next (stored (writeBytes s.dmem m bytes) bytes.length s)) := by
  rw [hi]
  refine ⟨fun hr => finish_require_fails (not_inDmem_iff.2 hr) _, fun hr hbig => ?_, fun hr hfits => ?_⟩
  · rw [finish_require_holds (inDmem_iff.2 hr), finish_require_fails hbig]
    rfl
  · have hw := State.memWrite_eq_ok.2 ⟨(Nat.add_le_add_left (hp hfits) m).trans hr, rfl⟩
    rw [finish_require_holds (inDmem_iff.2 hr), finish_require_holds hfits, hw]
    rfl

theorem holds_writeBytes (m : List Host.Cell) (k : Nat) (bytes : List Byte) :
    Holds (writeBytes m k bytes) k bytes := fun _ => read_writeBytes_inside

theorem sameOutside_writeBytes (m : List Host.Cell) (k : Nat) (bytes : List Byte) :
    SameOutside m (writeBytes m k bytes) k bytes.length := fun _ => read_writeBytes_outside

/-! ## The width (R17) -/

theorem bytelen_le {v k : Nat} (hk : 1 ≤ k) (h : v < 256 ^ k) : bytelen v ≤ k := by
  have hbits : bitlen v ≤ 8 * k := bitlen_le (by rwa [pow_mul])
  unfold bytelen
  omega

theorem bytelen_le_iff {v k : Nat} (hk : 1 ≤ k) : bytelen v ≤ k ↔ v < 256 ^ k :=
  ⟨fun h => (lt_pow_bytelen v).trans_le (Nat.pow_le_pow_right (by decide) h), bytelen_le hk⟩

theorem one_le_bytelen (v : Nat) : 1 ≤ bytelen v := le_max_left _ _

theorem IsByteLength.eq_bytelen {v L : Nat} (h : IsByteLength v L) : bytelen v = L := by
  obtain ⟨hL, hlt, hleast⟩ := h
  exact (bytelen_le hL hlt).antisymm (hleast _ (one_le_bytelen v) (lt_pow_bytelen v))

theorem one_le_storeWidth (v : Nat) (len : BitVec 8) : 1 ≤ storeWidth v len := by
  unfold storeWidth
  split_ifs with h
  · exact one_le_bytelen v
  · exact Nat.pos_of_ne_zero h

/-- The width of a byte store is the L of R97. -/
theorem storeWidth_eq {v L : Nat} (h0 : len = 0 → IsByteLength v L) (h1 : len ≠ 0 → L = len.toNat) :
    storeWidth v len = L := by
  by_cases h : len = 0
  · subst h
    exact (h0 rfl).eq_bytelen
  · have hcount : byteCount len ≠ 0 := fun hz => h (BitVec.eq_of_toNat_eq hz)
    rw [storeWidth, if_neg hcount, h1 h]
    rfl

/-! ## The bytes (R97, R98) -/

/-- Byte j of a non-negative integer, by the integers' own division (00_scope.md R16). -/
theorem byteOf_toNat_eq_ofInt {x : Int} (h : 0 ≤ x) (j : Nat) :
    byteOf x.toNat j = BitVec.ofInt 8 (x / 2 ^ (8 * j) % 256) := by
  lift x to Nat using h
  refine BitVec.eq_of_toNat_eq ?_
  rw [byteOf_toNat, Int.toNat_natCast, BitVec.toNat_ofInt]
  norm_cast
  omega

theorem getElem_beBytes {L x j : Nat} (h : j < (beBytes L x).length) : (beBytes L x)[j] = byteOf x (L - 1 - j) := by
  simp [beBytes]

/-! ## Byte stores -/

/-- All that a byte store can do, its byte j being byte `place j` of the operand. -/
theorem exec_byteStore {form : Nat → Nat → List Byte} {place : Nat → Nat} {L : Nat}
    (hlen : ∀ x, (form L x).length = L)
    (hform : ∀ x j, (h : j < (form L x).length) → (form L x)[j] = byteOf x (place j))
    (hi : exec i s = storeInteger form a addr len s) :
    (s.vb[a] = false → exec i s = .next (stopped 0x03 s)) ∧
      (s.vb[a] = true → s.b[a] < 0 → exec i s = .next (stopped 0x07 s)) ∧
      (s.vb[a] = true → 0 ≤ s.b[a] →
        (len = 0 → IsByteLength s.b[a].toNat L) → (len ≠ 0 → L = len.toNat) →
        (s.build.dmemBytes < addr.toNat + L → exec i s = .next (stopped 0x04 s)) ∧
        (addr.toNat + L ≤ s.build.dmemBytes → 256 ^ L ≤ s.b[a] → exec i s = .next (stopped 0x06 s)) ∧
        (addr.toNat + L ≤ s.build.dmemBytes → s.b[a] < 256 ^ L →
          ∃ m, exec i s = .next (stored m L s) ∧ SameOutside s.dmem m addr.toNat L ∧
            ∀ j, j < L → Cells.read m (addr.toNat + j) =
              some (BitVec.ofInt 8 (s.b[a] / 2 ^ (8 * place j) % 256)))) := by
  obtain ⟨hinvalid, hneg, hrun⟩ := exec_nonNegative hi
  refine ⟨hinvalid, hneg, fun hv hpos h0 h1 => ?_⟩
  have hwidth := storeWidth_eq h0 h1
  have hL : 1 ≤ L := hwidth ▸ one_le_storeWidth _ len
  have hfits : bytelen s.b[a].toNat ≤ L ↔ s.b[a] < 256 ^ L := by
    rw [bytelen_le_iff hL]
    zify
    rw [Int.toNat_of_nonneg hpos]
  obtain ⟨hpast, hbig, hok⟩ := exec_store (m := addr.toNat) (n := L) (p := decide (bytelen s.b[a].toNat ≤ L))
    (bytes := form L s.b[a].toNat) (fun _ => (hlen _).le)
    ((hrun hv hpos).trans (by rw [hwidth, hlen]; rfl))
  rw [hlen] at hok
  refine ⟨hpast, fun hr hx => hbig hr (decide_eq_false (mt hfits.1 hx.not_gt)), fun hr hx =>
    ⟨_, hok hr (decide_eq_true (hfits.2 hx)), ?_, fun j hj => ?_⟩⟩
  · have hout := sameOutside_writeBytes s.dmem addr.toNat (form L s.b[a].toNat)
    rwa [hlen] at hout
  · have hj' : j < (form L s.b[a].toNat).length := by rwa [hlen]
    rw [← byteOf_toNat_eq_ofInt hpos, ← hform _ _ hj']
    exact holds_writeBytes _ _ _ j hj'

end ByteStores

/-- Settles O19: the two stores are one, but for the place of each byte. -/
theorem byteStores : Obligations.ByteStores := by
  unfold Obligations.ByteStores
  intro a addr len s L iw hiw
  simp only [List.mem_cons, List.not_mem_nil, or_false] at hiw
  obtain rfl | rfl := hiw
  · exact exec_byteStore (beBytes_length L) (fun _ _ => getElem_beBytes) rfl
  · exact exec_byteStore (leBytes_length L) (fun _ _ => getElem_leBytes) rfl

end Sys2Proof.Machine
end

section
/-! SUPPORT. O20, 42_bigint_conversion.md R93, R99, R101: the parser answers exactly the integer a string denotes. -/

namespace Sys2Proof.Machine

section StringLoads
variable {i : Instr} {s : State} {a : BReg} {addr : BitVec 12} {len : BitVec 8} {r : Radix}

/-! ## The grammar (R93) -/

theorem digitValue?_eq_some {c : Byte} {d : Nat} : digitValue? r c = some d ↔ IsDigit r c d := by
  unfold digitValue? IsDigit
  cases r with
  | hex =>
    simp only [true_and]
    split_ifs <;> simp only [Option.some.injEq, false_iff] <;> omega
  | dec =>
    simp only [reduceCtorEq, false_and, or_false]
    split_ifs <;> simp only [Option.some.injEq, false_iff] <;> omega

/-- Horner's rule: the two most significant digits of a numeral may be read as one. -/
theorem ofDigits_reverse_merge (B c d : Nat) (ds : List Nat) :
    Nat.ofDigits B ((c * B + d) :: ds).reverse = Nat.ofDigits B (c :: d :: ds).reverse := by
  simp only [List.reverse_cons, Nat.ofDigits_append, Nat.ofDigits_singleton, List.length_append,
    List.length_singleton, List.length_reverse]
  ring

/-- The digits after `acc` are those of the numeral that begins with `acc`. -/
theorem digitsFrom?_eq_some {acc m : Nat} {str : List Byte} :
    digitsFrom? r acc str = some m ↔
      ∃ ds, List.Forall₂ (IsDigit r) str ds ∧ m = Nat.ofDigits r.base (acc :: ds).reverse := by
  induction str generalizing acc with
  | nil => simp [digitsFrom?, eq_comm]
  | cons c str ih =>
    rw [digitsFrom?]
    constructor
    · intro h
      cases hd : digitValue? r c with
      | none => simp [hd] at h
      | some d =>
        rw [hd] at h
        obtain ⟨ds, hds, rfl⟩ := ih.1 h
        exact ⟨d :: ds, .cons (digitValue?_eq_some.1 hd) hds, ofDigits_reverse_merge _ _ _ _⟩
    · rintro ⟨_, hds, rfl⟩
      cases hds with
      | cons hd hds =>
        rw [digitValue?_eq_some.2 hd]
        exact ih.2 ⟨_, hds, (ofDigits_reverse_merge _ _ _ _).symm⟩

theorem digits?_eq_some {m : Nat} {str : List Byte} : digits? r str = some m ↔ IsDigits r str m := by
  unfold IsDigits
  cases str with
  | nil => simp [digits?]
  | cons c str =>
    simp only [digits?, digitsFrom?_eq_some, List.reverse_cons (a := 0), Nat.ofDigits_append_zero]
    refine exists_congr fun ds => ⟨fun ⟨hds, hm⟩ => ⟨?_, hds, hm⟩, fun ⟨_, hds, hm⟩ => ⟨hds, hm⟩⟩
    rintro rfl
    cases hds

/-- '-' is no digit. -/
theorem not_isDigits_minus {m : Nat} {str : List Byte} : ¬ IsDigits r (minusChar :: str) m := by
  rintro ⟨_, -, hds, -⟩
  cases hds with
  | cons hd _ => simp [IsDigit, minusChar] at hd

theorem parse?_minus {str : List Byte} {v : Int} :
    parse? r (minusChar :: str) = some v ↔ ∃ m : Nat, IsDigits r str m ∧ v = -(m : Int) := by
  simp [parse?, Option.bind_eq_some_iff, digits?_eq_some, eq_comm (a := v)]

theorem parse?_unsigned {c : Byte} (hc : c ≠ minusChar) {str : List Byte} {v : Int} :
    parse? r (c :: str) = some v ↔ ∃ m : Nat, IsDigits r (c :: str) m ∧ v = m := by
  simp [parse?, hc, Option.bind_eq_some_iff, digits?_eq_some, eq_comm (a := v)]

theorem parse?_eq_some {str : List Byte} {v : Int} : parse? r str = some v ↔ Denotes r str v := by
  cases str with
  | nil => simp [parse?, Denotes, ← digits?_eq_some, digits?]
  | cons c str =>
    by_cases hc : c = minusChar
    · subst hc
      rw [parse?_minus]
      refine exists_congr fun m => ⟨fun h => .inr ⟨str, rfl, h⟩, ?_⟩
      rintro (⟨hm, -⟩ | ⟨t, ht, h⟩)
      · exact absurd hm not_isDigits_minus
      · rwa [(List.cons.inj ht).2]
    · rw [parse?_unsigned hc]
      refine exists_congr fun m => ⟨.inl, fun h => h.resolve_right ?_⟩
      rintro ⟨t, ht, -⟩
      exact hc (List.cons.inj ht).1

/-! ## String loads -/

/-- All that a string load can do. -/
theorem exec_stringLoad (hi : exec i s = loadString r a addr len s) :
    (s.build.dmemBytes < addr.toNat + len.toNat → exec i s = .next (stopped 0x04 s)) ∧
      (addr.toNat + len.toNat ≤ s.build.dmemBytes →
        LoadsString r i a (s.dmemBytes addr.toNat len.toNat) s (drew len.toNat s)) := by
  refine ⟨fun h => hi.trans (memReadThen_pastDmem h _), fun h => ?_⟩
  rw [LoadsString, hi.trans (memReadThen_inDmem h _)]
  refine ⟨fun hnone => ?_, fun v hv => ?_⟩
  · have hp : parse? r (s.dmemBytes addr.toNat len.toNat) = none :=
      Option.eq_none_iff_forall_ne_some.2 fun v hv => hnone v (parse?_eq_some.1 hv)
    rw [hp]
    rfl
  · rw [parse?_eq_some.2 hv]
    exact ⟨fun hbig => finish_result_overflow hbig, fun hfits => finish_result_ok hfits⟩

end StringLoads

/-- Settles O20: where every byte was written, the bytes read are the string there. -/
theorem stringLoads : Obligations.StringLoads := by
  unfold Obligations.StringLoads
  intro a addr len s ri hri
  have hload : exec ri.2 s = loadString ri.1 a addr len s := by
    simp only [List.mem_cons, List.not_mem_nil, or_false] at hri
    obtain rfl | rfl := hri <;> rfl
  obtain ⟨hpast, hin⟩ := exec_stringLoad hload
  refine ⟨hpast, fun h => ⟨fun str hlen hstr => ?_, _, s.dmemBytes_length _ _, dmemBytes_mayRead _ _, hin h⟩⟩
  have hbytes := dmemBytes_of_holds hstr
  rw [hlen] at hbytes
  rw [← hbytes]
  exact hin h

end Sys2Proof.Machine
end

section
/-! SUPPORT. O21, 42_bigint_conversion.md R94, R100, R102: the string a store makes is the canonical one. -/

namespace Sys2Proof.Machine

section StringStores
variable {i : Instr} {s : State} {a : BReg} {addr : BitVec 12} {len : BitVec 8} {r : Radix}

/-! ## The digits of a number -/

theorem Radix.one_lt_base (r : Radix) : 1 < r.base := by cases r <;> decide

theorem Radix.base_le (r : Radix) : r.base ≤ 16 := by cases r <;> decide

/-- With fuel for every bit the digits are all there. -/
theorem digitsOf_eq {B fuel v : Nat} (hB : 1 < B) (h : v < 2 ^ fuel) (acc : List Nat) :
    digitsOf B fuel v acc = (Nat.digits B v).reverse ++ acc := by
  induction fuel generalizing v acc with
  | zero =>
    obtain rfl : v = 0 := Nat.lt_one_iff.1 h
    simp [digitsOf]
  | succ fuel ih =>
    rw [digitsOf]
    split_ifs with h0
    · simp [h0]
    · have hdiv : v / B < 2 ^ fuel := by
        rw [Nat.pow_succ'] at h
        exact Nat.div_lt_of_lt_mul (h.trans_le (Nat.mul_le_mul_right _ hB))
      rw [ih hdiv, Nat.digits_def' hB (Nat.pos_of_ne_zero h0)]
      simp

theorem canonicalDigits_of_ne_zero {B v : Nat} (hB : 1 < B) (hv : v ≠ 0) :
    canonicalDigits B v = (Nat.digits B v).reverse := by
  rw [canonicalDigits, if_neg hv, digitsOf_eq hB (lt_two_pow_bitlen v), List.append_nil]

theorem lt_base_of_mem_canonicalDigits {B v d : Nat} (hB : 1 < B) (hd : d ∈ canonicalDigits B v) : d < B := by
  by_cases hv : v = 0
  · obtain rfl : d = 0 := by simpa [canonicalDigits, hv] using hd
    omega
  · rw [canonicalDigits_of_ne_zero hB hv, List.mem_reverse] at hd
    exact Nat.digits_lt_base hB hd

theorem ofDigits_canonicalDigits {B : Nat} (hB : 1 < B) (v : Nat) :
    Nat.ofDigits B (canonicalDigits B v).reverse = v := by
  by_cases hv : v = 0
  · simp [canonicalDigits, hv]
  · rw [canonicalDigits_of_ne_zero hB hv, List.reverse_reverse, Nat.ofDigits_digits]

/-- The digits begin with one that is not 0, but for the number 0. -/
theorem exists_canonicalDigits_eq_cons {B v : Nat} (hB : 1 < B) :
    ∃ d ds, canonicalDigits B v = d :: ds ∧ (v ≠ 0 → d ≠ 0) := by
  by_cases hv : v = 0
  · exact ⟨0, [], by simp [canonicalDigits, hv], absurd hv⟩
  · have hne : Nat.digits B v ≠ [] := Nat.digits_ne_nil_iff_ne_zero.2 hv
    refine ⟨_, (Nat.digits B v).dropLast.reverse, ?_, fun _ => Nat.getLast_digit_ne_zero B hv⟩
    rw [canonicalDigits_of_ne_zero hB hv]
    exact (congr_arg List.reverse (List.dropLast_append_getLast hne)).symm.trans List.reverse_concat

/-! ## The characters of the digits -/

theorem digitChar_toNat {d : Nat} (hd : d < 16) :
    (digitChar d).toNat = if d < 10 then 0x30 + d else 0x57 + d := by
  revert d
  decide

theorem isDigit_digitChar {d : Nat} (hd : d < r.base) : IsDigit r (digitChar d) d := by
  rw [IsDigit, digitChar_toNat (hd.trans_le r.base_le)]
  cases r with
  | hex =>
    have : d < 16 := hd
    split_ifs <;> simp <;> omega
  | dec =>
    have : d < 10 := hd
    rw [if_pos this]
    omega

theorem digitChar_lowercase {d : Nat} (hd : d < 16) :
    ¬ (0x41 ≤ (digitChar d).toNat ∧ (digitChar d).toNat ≤ 0x46) := by
  rw [digitChar_toNat hd]
  split_ifs <;> omega

theorem digitChar_ne_zeroChar {d : Nat} (hd : d < 16) (h0 : d ≠ 0) : digitChar d ≠ 0x30 := by
  revert d
  decide

/-! ## The canonical string (R94) -/

/-- The characters of the digits of a number. -/
def digitString (r : Radix) (v : Nat) : List Byte := (canonicalDigits r.base v).map digitChar

theorem canonicalString_nonneg {x : Int} (h : 0 ≤ x) : canonicalString r x = digitString r x.natAbs := by
  rw [canonicalString, if_neg h.not_gt]
  rfl

theorem canonicalString_neg {x : Int} (h : x < 0) :
    canonicalString r x = minusChar :: digitString r x.natAbs := by
  rw [canonicalString, if_pos h]
  rfl

theorem isDigits_digitString (v : Nat) : IsDigits r (digitString r v) v := by
  obtain ⟨d, ds, hds, -⟩ := exists_canonicalDigits_eq_cons (v := v) r.one_lt_base
  refine ⟨canonicalDigits r.base v, by simp [hds], ?_, (ofDigits_canonicalDigits r.one_lt_base v).symm⟩
  rw [digitString, List.forall₂_map_left_iff, List.forall₂_same]
  exact fun d hd => isDigit_digitChar (lt_base_of_mem_canonicalDigits r.one_lt_base hd)

theorem digitString_lowercase {v : Nat} {c : Byte} (hc : c ∈ digitString r v) :
    ¬ (0x41 ≤ c.toNat ∧ c.toNat ≤ 0x46) := by
  obtain ⟨d, hd, rfl⟩ := List.mem_map.1 hc
  exact digitChar_lowercase ((lt_base_of_mem_canonicalDigits r.one_lt_base hd).trans_le r.base_le)

theorem digitString_head_ne_zeroChar {v : Nat} (hv : v ≠ 0) : (digitString r v)[0]? ≠ some 0x30 := by
  obtain ⟨d, ds, hds, h0⟩ := exists_canonicalDigits_eq_cons (v := v) r.one_lt_base
  have hd := lt_base_of_mem_canonicalDigits (d := d) r.one_lt_base (hds ▸ List.mem_cons_self)
  simpa [digitString, hds] using digitChar_ne_zeroChar (hd.trans_le r.base_le) (h0 hv)

theorem denotes_canonicalString (r : Radix) (x : Int) : Denotes r (canonicalString r x) x := by
  refine ⟨x.natAbs, ?_⟩
  obtain h | h := le_or_gt 0 x
  · exact .inl ⟨canonicalString_nonneg h ▸ isDigits_digitString _, (Int.natAbs_of_nonneg h).symm⟩
  · exact .inr ⟨_, canonicalString_neg h, isDigits_digitString _, by omega⟩

theorem canonicalString_lowercase {x : Int} {c : Byte} (hc : c ∈ canonicalString r x) :
    ¬ (0x41 ≤ c.toNat ∧ c.toNat ≤ 0x46) := by
  obtain h | h := le_or_gt 0 x
  · exact digitString_lowercase (canonicalString_nonneg h ▸ hc)
  · rw [canonicalString_neg h] at hc
    obtain rfl | hc := List.mem_cons.1 hc
    · decide
    · exact digitString_lowercase hc

theorem isCanonical_canonicalString (r : Radix) (x : Int) : IsCanonical r x (canonicalString r x) := by
  refine ⟨denotes_canonicalString r x, fun c => canonicalString_lowercase, ?_, fun h => ?_, fun h => ?_⟩
  · rintro rfl
    rfl
  · rw [canonicalString_nonneg h.le]
    exact digitString_head_ne_zeroChar (Int.natAbs_ne_zero.2 h.ne')
  · rw [canonicalString_neg h]
    exact ⟨rfl, digitString_head_ne_zeroChar (Int.natAbs_ne_zero.2 h.ne)⟩

end StringStores

/-- Settles O21: both stores check and store the canonical string. -/
theorem stringStores : Obligations.StringStores := by
  unfold Obligations.StringStores
  intro a addr len s ri hri
  have hstore : exec ri.2 s = storeString ri.1 a addr len s := by
    simp only [List.mem_cons, List.not_mem_nil, or_false] at hri
    obtain rfl | rfl := hri <;> rfl
  have hrun := fun hv : s.vb[a] = true => exec_store (bytes := canonicalString ri.1 s.b[a])
    (p := decide ((canonicalString ri.1 s.b[a]).length ≤ len.toNat)) of_decide_eq_true
    (hstore.trans (finish_readB_valid hv _))
  refine ⟨fun hv => hstore.trans (finish_readB_invalid hv _), fun hv => (hrun hv).1, fun hv hr => ?_⟩
  obtain ⟨-, hlong, hok⟩ := hrun hv
  refine ⟨_, isCanonical_canonicalString ri.1 s.b[a], fun hx => ?_, fun hx => ?_⟩
  · exact hlong hr (decide_eq_false hx.not_ge)
  · exact ⟨_, hok hr (decide_eq_true hx), holds_writeBytes _ _ _, sameOutside_writeBytes _ _ _⟩

end Sys2Proof.Machine
end

section
/-! SUPPORT. O22, 42_bigint_conversion.md R94, R97, R98, R102: a completed store leaves its bytes at EA and their number
in SLEN, and a load of them reads them back. -/

namespace Sys2Proof.Machine

section LoadAfterStore
variable {s t : State} {a d : BReg} {addr : BitVec 12} {len : BitVec 8} {r : Radix}

/-- An instruction that ends past its own word raised no error (60_exceptions.md R134). -/
theorem eq_ok_of_finish {res : Result State} (h : finish s res = .next t) (hpc : t.pc = s.pc + 1) : res = .ok t := by
  obtain h | ⟨e, -, rfl⟩ := finish_eq_next.1 h
  · exact h
  · simp at hpc

/-! ## Completed stores -/

/-- The state after a completed store of these bytes at m. -/
def StoredBytes (m : Nat) (bytes : List Byte) (s t : State) : Prop :=
  m + bytes.length ≤ s.build.dmemBytes ∧ t = stored (writeBytes s.dmem m bytes) bytes.length s

theorem storedBytes_of_memWrite {m L : Nat} {bytes : List Byte} (hL : bytes.length = L)
    (h : (s.memWrite m bytes >>= fun u => pure (u.setSlen L).nextPc) = .ok t) : StoredBytes m bytes s t := by
  subst hL
  obtain ⟨u, hu, ht⟩ := Result.bind_eq_ok.1 h
  obtain ⟨hr, rfl⟩ := State.memWrite_eq_ok.1 hu
  exact ⟨hr, (Except.ok.inj ht).symm⟩

/-- A byte store that completes stored a width of bytes in which its operand fits. -/
theorem storedBytes_of_storeInteger {form : Nat → Nat → List Byte} (hlen : ∀ L x, (form L x).length = L)
    (h : storeInteger form a addr len s = .next t) (hpc : t.pc = s.pc + 1) :
    ∃ L, s.vb[a] = true ∧ 0 ≤ s.b[a] ∧ s.b[a].toNat < 256 ^ L ∧
      StoredBytes addr.toNat (form L s.b[a].toNat) s t := by
  obtain ⟨x, hx, h⟩ := Result.bind_eq_ok.1 (eq_ok_of_finish h hpc)
  obtain ⟨hv, rfl⟩ := State.readB_eq_ok.1 hx
  obtain ⟨_, hpos, h⟩ := Result.bind_eq_ok.1 h
  obtain ⟨_, -, h⟩ := Result.bind_eq_ok.1 h
  obtain ⟨_, hfits, h⟩ := Result.bind_eq_ok.1 h
  refine ⟨storeWidth s.b[a].toNat len, hv, requireNonNeg_eq_ok.1 hpos, ?_, storedBytes_of_memWrite (hlen _ _) h⟩
  exact (bytelen_le_iff (one_le_storeWidth _ len)).1 (of_decide_eq_true (require_eq_ok.1 hfits))

theorem storedBytes_of_storeString (h : storeString r a addr len s = .next t) (hpc : t.pc = s.pc + 1) :
    s.vb[a] = true ∧ StoredBytes addr.toNat (canonicalString r s.b[a]) s t := by
  obtain ⟨x, hx, h⟩ := Result.bind_eq_ok.1 (eq_ok_of_finish h hpc)
  obtain ⟨hv, rfl⟩ := State.readB_eq_ok.1 hx
  obtain ⟨_, -, h⟩ := Result.bind_eq_ok.1 h
  obtain ⟨_, -, h⟩ := Result.bind_eq_ok.1 h
  exact ⟨hv, storedBytes_of_memWrite rfl h⟩

/-! ## The load of what was stored -/

theorem StoredBytes.build_eq {m : Nat} {bytes : List Byte} (h : StoredBytes m bytes s t) : t.build = s.build := by
  rw [h.2]
  rfl

theorem StoredBytes.holds {m : Nat} {bytes : List Byte} (h : StoredBytes m bytes s t) : Holds t.dmem m bytes := by
  rw [h.2]
  exact holds_writeBytes _ _ _

theorem StoredBytes.slen_eq {m : Nat} {bytes : List Byte} (h : StoredBytes m bytes s t) (hL : s.build.Legal) :
    t.slen.toNat = bytes.length := by
  rw [h.2]
  exact stored_slen hL ((Nat.le_add_left _ _).trans h.1)

/-- A load of SLEN bytes after a store goes on with the bytes stored. -/
theorem StoredBytes.load {m : Nat} {bytes : List Byte} (h : StoredBytes m bytes s t) (hL : s.build.Legal)
    (hs : t.slen.toNat < 256) (rest : List Byte → State → Result State) :
    memReadThen m (byteCount (BitVec.ofNat 8 t.slen.toNat)) t rest =
      finish (drew t.slen.toNat t) (rest bytes (drew t.slen.toNat t)) := by
  have hcount : byteCount (BitVec.ofNat 8 t.slen.toNat) = t.slen.toNat := Nat.mod_eq_of_lt hs
  have hr : m + bytes.length ≤ t.build.dmemBytes := h.build_eq ▸ h.1
  rw [hcount, h.slen_eq hL, memReadThen_inDmem hr, dmemBytes_of_holds h.holds]

/-- A load of SLEN bytes writes the operand back where the bytes stored have its value. -/
theorem StoredBytes.load_result {m : Nat} {bytes : List Byte} (h : StoredBytes m bytes s t) (hL : s.build.Legal)
    (hfit : RegistersFit s) (hv : s.vb[a] = true) (hs : t.slen.toNat < 256)
    {rest : List Byte → State → Result State} (hrest : ∀ u, rest bytes u = u.result d s.b[a]) :
    memReadThen m (byteCount (BitVec.ofNat 8 t.slen.toNat)) t rest =
      .next (wrote d s.b[a] (drew t.slen.toNat t)) := by
  have hx : s.b[a].natAbs < 2 ^ t.build.maxBits := h.build_eq ▸ hfit a hv
  rw [h.load hL hs, hrest]
  exact finish_result_ok hx

/-- The two byte forms, whose value is that of the operand modulo 256^L. -/
theorem byteLoad_of_byteStore {form : Nat → Nat → List Byte} {value : List Byte → Nat}
    (hlen : ∀ L x, (form L x).length = L) (hvalue : ∀ L x, value (form L x) = x % 256 ^ L)
    (hL : s.build.Legal) (hfit : RegistersFit s) (h : storeInteger form a addr len s = .next t)
    (hpc : t.pc = s.pc + 1) (hs : t.slen.toNat < 256) :
    memReadThen addr.toNat (byteCount (BitVec.ofNat 8 t.slen.toNat)) t
        (fun bytes u => u.result d (value bytes : Nat)) =
      .next (wrote d s.b[a] (drew t.slen.toNat t)) := by
  obtain ⟨L, hv, hpos, hlt, hst⟩ := storedBytes_of_storeInteger hlen h hpc
  refine hst.load_result hL hfit hv hs fun u => ?_
  rw [hvalue, Nat.mod_eq_of_lt hlt, Int.toNat_of_nonneg hpos]

/-- The two string forms: the canonical string denotes the operand. -/
theorem loadString_of_storeString (hL : s.build.Legal) (hfit : RegistersFit s)
    (h : storeString r a addr len s = .next t) (hpc : t.pc = s.pc + 1) (hs : t.slen.toNat < 256) :
    loadString r d addr (BitVec.ofNat 8 t.slen.toNat) t = .next (wrote d s.b[a] (drew t.slen.toNat t)) := by
  obtain ⟨hv, hst⟩ := storedBytes_of_storeString h hpc
  refine hst.load_result hL hfit hv hs fun u => ?_
  rw [parse?_eq_some.2 (denotes_canonicalString r s.b[a])]

end LoadAfterStore

/-- Settles O22, by the bytes each store leaves and the value its load gives them. -/
theorem loadInvertsStore : Obligations.LoadInvertsStore := by
  unfold Obligations.LoadInvertsStore
  intro a d addr len s t hL hfit sl hsl h hpc hs
  simp only [List.mem_cons, List.not_mem_nil, or_false] at hsl
  obtain rfl | rfl | rfl | rfl := hsl
  · exact byteLoad_of_byteStore beBytes_length beValue_beBytes hL hfit h hpc hs
  · exact byteLoad_of_byteStore leBytes_length leValue_leBytes hL hfit h hpc hs
  · exact loadString_of_storeString (r := .hex) hL hfit h hpc hs
  · exact loadString_of_storeString (r := .dec) hL hfit h hpc hs

end Sys2Proof.Machine
end

section
/-! SUPPORT. O15 to O17, 43_modular.md R103 to R106: an instruction with a modulus stops on 0, then on a negative one,
and a residue of a modulus within capacity is within capacity. -/

namespace Sys2Proof.Machine

section Modulus
variable {i : Instr} {s : State} {a b c : BReg} {x v m : Int}

/-! ## The check of the modulus (R103) -/

theorem finish_requireModulus_zero (h : m = 0) (rest : Unit → Result State) :
    finish s (requireModulus m >>= rest) = .next (stopped 0x11 s) := by
  rw [h, requireModulus_zero]
  rfl

theorem finish_requireModulus_neg (h : m < 0) (rest : Unit → Result State) :
    finish s (requireModulus m >>= rest) = .next (stopped 0x08 s) := by
  rw [requireModulus_neg h]
  rfl

theorem finish_requireModulus_ok (h : 0 < m) (rest : Unit → Result State) :
    finish s (requireModulus m >>= rest) = finish s (rest ()) := by
  rw [requireModulus_ok h]
  rfl

/-- All that an instruction that goes on with an integer and a modulus can do. -/
theorem exec_modulus {rest : Int × Int → Result State}
    (hi : exec i s = finish s (s.readB2 b c >>= fun xm => requireModulus xm.2 >>= fun _ => rest xm)) :
    (¬ Valid2 s b c → exec i s = .next (stopped 0x03 s)) ∧
      (Valid2 s b c → s.b[c] = 0 → exec i s = .next (stopped 0x11 s)) ∧
      (Valid2 s b c → s.b[c] < 0 → exec i s = .next (stopped 0x08 s)) ∧
      (Valid2 s b c → 0 < s.b[c] → exec i s = finish s (rest (s.b[b], s.b[c]))) := by
  rw [hi]
  refine ⟨fun hv => finish_readB2_not_valid2 hv _, fun hv h0 => ?_, fun hv hneg => ?_, fun hv hpos => ?_⟩
  · rw [finish_readB2_valid2 hv, finish_requireModulus_zero h0]
  · rw [finish_readB2_valid2 hv, finish_requireModulus_neg hneg]
  · rw [finish_readB2_valid2 hv, finish_requireModulus_ok hpos]

/-! ## Residues -/

/-- A residue of a modulus within capacity is written. -/
theorem finish_result_residue (hm : m.natAbs < 2 ^ s.build.maxBits) (h0 : 0 ≤ v) (hlt : v < m) :
    finish s (s.result a v) = .next (wrote a v s) :=
  finish_result_ok ((Int.natAbs_lt_natAbs_of_nonneg_of_lt h0 hlt).trans hm)

/-- The machine's power, on the integers (R105). -/
theorem powMod_emod (hm : 0 < m) (e : Nat) :
    ((powMod (x % m).toNat e m.toNat : Nat) : Int) = (x % m) ^ e % m := by
  rw [powMod_eq, Int.natCast_mod, Int.natCast_pow, Int.toNat_of_nonneg (Int.emod_nonneg x hm.ne'),
    Int.toNat_of_nonneg hm.le]

/-- The machine's gcd, on the integers (R106). -/
theorem gcd_emod (hm : 0 < m) : Nat.gcd (x % m).toNat m.toNat = Int.gcd (x % m) m := by
  rw [← Int.gcd_natCast_natCast, Int.toNat_of_nonneg (Int.emod_nonneg x hm.ne'), Int.toNat_of_nonneg hm.le]

end Modulus

/-- Settles O16: the checks in R105's order, then square-and-multiply by its value `powMod_eq`. -/
theorem modexpIsThePower : Obligations.ModexpIsThePower := by
  unfold Obligations.ModexpIsThePower
  intro a b c d s hfit
  refine ⟨fun hinvalid => ?_, fun hv hd => ?_⟩
  · by_cases hv : Valid2 s b c
    · have hd : s.vb[d] = false := Bool.eq_false_iff.2 fun hd => hinvalid ⟨hv, hd⟩
      exact (finish_readB2_valid2 hv _).trans (finish_readB_invalid hd _)
    · exact finish_readB2_not_valid2 hv _
  · have hrun : exec (.modexp a b c d) s = finish s (requireModulus s.b[d] >>= fun _ =>
        requireNonNeg s.b[c] >>= fun _ =>
          s.result a (powMod (s.b[b] % s.b[d]).toNat s.b[c].toNat s.b[d].toNat : Nat)) :=
      (finish_readB2_valid2 hv _).trans (finish_readB_valid hd _)
    rw [hrun]
    refine ⟨fun h0 => finish_requireModulus_zero h0 _, fun hneg => finish_requireModulus_neg hneg _,
      fun hpos he => ?_, fun hpos he => ?_⟩
    · rw [finish_requireModulus_ok hpos, finish_requireNonNeg_neg he]
    · rw [finish_requireModulus_ok hpos, finish_requireNonNeg_ok he, powMod_emod hpos]
      exact finish_result_residue (hfit d hd) (Int.emod_nonneg _ hpos.ne') (Int.emod_lt_of_pos _ hpos)

/-- Settles O17: where the gcd is 1, `modInv` is an inverse in [0, m), and the only one. -/
theorem modinvIsTheInverse : Obligations.ModinvIsTheInverse := by
  unfold Obligations.ModinvIsTheInverse
  intro a b c s hfit
  obtain ⟨hinvalid, hzero, hneg, hrun⟩ := exec_modulus (i := .modinv a b c) rfl
  refine ⟨hinvalid, hzero, hneg, fun hv hpos hg => ?_, fun hv hpos hg => ?_⟩
  · rw [← gcd_emod hpos] at hg
    exact (hrun hv hpos).trans (finish_require_fails (decide_eq_false hg) _)
  · rw [← gcd_emod hpos] at hg
    obtain ⟨h0, hlt, hinv⟩ := modInv_spec hpos hg
    refine ⟨modInv s.b[b] s.b[c], h0, hlt, hinv, fun v' => modInv_unique hpos hg, ?_⟩
    exact (hrun hv hpos).trans
      ((finish_require_holds (decide_eq_true hg) _).trans (finish_result_residue (hfit c hv.2) h0 hlt))

/-- Settles O15: the remainder of the flooring division is the residue. -/
theorem modReduces : Obligations.ModReduces := by
  unfold Obligations.ModReduces
  intro a b c s hfit
  obtain ⟨hinvalid, hzero, hneg, hrun⟩ := exec_modulus (i := .mod a b c) rfl
  refine ⟨hinvalid, hzero, hneg, fun hv hpos => ?_⟩
  have h0 : 0 ≤ s.b[b] % s.b[c] := Int.emod_nonneg _ hpos.ne'
  have hlt : s.b[b] % s.b[c] < s.b[c] := Int.emod_lt_of_pos _ hpos
  exact ⟨s.b[b] / s.b[c], s.b[b] % s.b[c], h0, hlt, (Int.emod_add_ediv_mul _ _).symm,
    (hrun hv hpos).trans (finish_result_residue (hfit c hv.2) h0 hlt)⟩

end Sys2Proof.Machine
end

section
/-! SUPPORT. O25, O26, 44_ec_point.md R108, R109: the slopes of the point operations by their congruences, with no
inverse named. -/

namespace Sys2Proof.Config.Curve

open Sys2Proof.Machine

section Slopes
variable {c : Config.Curve} (hc : c.Legal)
include hc

/-- A quotient formed with `modInv` solves its congruence. -/
theorem Legal.mul_modInv_emod_sub {d : Int} (hd : (d : ZMod c.p.toNat) ≠ 0) (e : Int) :
    (e * modInv d c.p % c.p * d - e) % c.p = 0 := by
  have hinv := hc.mul_modInv hd
  rw [hc.emod_eq_zero_iff, Int.cast_sub, Int.cast_mul, hc.intCast_emod, Int.cast_mul]
  linear_combination (e : ZMod c.p.toNat) * hinv

/-- Distinct coordinates stay distinct in the field. -/
theorem Legal.intCast_sub_ne_zero {x y : Int} (hx : 0 ≤ x ∧ x < c.p) (hy : 0 ≤ y ∧ y < c.p) (h : x ≠ y) :
    ((y - x : Int) : ZMod c.p.toNat) ≠ 0 := by
  rw [Int.cast_sub]
  exact sub_ne_zero.2 fun heq => h (hc.eq_of_intCast_eq hx hy heq.symm)

/-- Doubling a point with y ≠ 0 is the tangent's third point (R108). -/
theorem Legal.exists_ecDbl_eq_thirdPoint {x y : Int} (hy : 0 ≤ y ∧ y < c.p) (hy0 : y ≠ 0) :
    ∃ lam : Int, (lam * (2 * y) - (3 * x * x + c.a)) % c.p = 0 ∧
      ecDbl c (.affine x y) = thirdPoint c.p lam x y x :=
  ⟨_, hc.mul_modInv_emod_sub (hc.two_mul_ne_zero hy hy0) _, if_neg hy0⟩

/-- Adding points of distinct abscissas is the chord's third point (R109). -/
theorem Legal.exists_ecAdd_eq_thirdPoint {x₁ y₁ x₂ y₂ : Int} (hx₁ : 0 ≤ x₁ ∧ x₁ < c.p) (hx₂ : 0 ≤ x₂ ∧ x₂ < c.p)
    (hx : x₁ ≠ x₂) :
    ∃ lam : Int, (lam * (x₂ - x₁) - (y₂ - y₁)) % c.p = 0 ∧
      ecAdd c (.affine x₁ y₁) (.affine x₂ y₂) = thirdPoint c.p lam x₁ y₁ x₂ :=
  ⟨_, hc.mul_modInv_emod_sub (hc.intCast_sub_ne_zero hx₁ hx₂ hx) _, if_neg hx⟩

/-- Points of one abscissa that are not each other's inverse are equal: y₁² = y₂² in the field (R109). -/
theorem Legal.y_eq_of_not_inverse {x y₁ y₂ : Int} (h₁ : onCurve c x y₁ = true) (h₂ : onCurve c x y₂ = true)
    (h : (y₁ + y₂) % c.p ≠ 0) : y₁ = y₂ := by
  have : Fact c.p.toNat.Prime := ⟨hc.p_prime⟩
  obtain ⟨-, hy₁, heq₁⟩ := hc.onCurve_iff.1 h₁
  obtain ⟨-, hy₂, heq₂⟩ := hc.onCurve_iff.1 h₂
  rw [Ne, hc.emod_eq_zero_iff, Int.cast_add] at h
  refine hc.eq_of_intCast_eq hy₁ hy₂ ((sq_eq_sq_iff_eq_or_eq_neg.1 (heq₁.trans heq₂.symm)).resolve_right fun hneg => ?_)
  exact h (by rw [hneg, neg_add_cancel])

end Slopes

end Sys2Proof.Config.Curve

namespace Sys2Proof.Machine

open Sys2Proof.Config

/-! ## The cases of ecAdd (R109) -/

section Addition
variable {c : Config.Curve} {x y₁ y₂ : Int}

@[simp] theorem ecAdd_inf_left (q : Point) : ecAdd c .inf q = q := rfl

@[simp] theorem ecAdd_inf_right (q : Point) : ecAdd c q .inf = q := by cases q <;> rfl

theorem ecAdd_of_inverse (h : (y₁ + y₂) % c.p = 0) : ecAdd c (.affine x y₁) (.affine x y₂) = .inf := by
  simp [ecAdd, h]

theorem ecAdd_of_not_inverse (h : (y₁ + y₂) % c.p ≠ 0) :
    ecAdd c (.affine x y₁) (.affine x y₂) = ecDbl c (.affine x y₁) := by
  simp [ecAdd, h]

@[simp] theorem ecDbl_inf : ecDbl c .inf = .inf := rfl

theorem ecDbl_of_y_eq_zero : ecDbl c (.affine x 0) = .inf := rfl

end Addition

/-! ## Double-and-add (R110) -/

section Multiplication
variable {c : Config.Curve} {k : Nat} {pt : Point}

theorem bitlen_eq_size (v : Nat) : bitlen v = v.size :=
  le_antisymm (bitlen_le (Nat.lt_size_self v)) (Nat.size_le.2 (lt_two_pow_bitlen v))

theorem bitOf_eq_testBit (v i : Nat) : bitOf v i = v.testBit i := by
  rw [bitOf_eq, Nat.testBit_eq_decide_div_mod_eq]

/-- The bits of 2k + b above its last are the bits of k. -/
theorem ecMulLoop_bit (b : Bool) (i : Nat) (q : Point) :
    ecMulLoop c (Nat.bit b k) pt (i + 1) q = ecMulStep c pt b (ecMulLoop c k pt i q) := by
  induction i generalizing q with
  | zero => simp only [ecMulLoop, bitOf_eq_testBit, Nat.testBit_bit_zero]
  | succ i ih =>
    rw [ecMulLoop, ih, bitOf_eq_testBit, Nat.testBit_bit_succ, ← bitOf_eq_testBit]
    rfl

@[simp] theorem ecMul_zero (c : Config.Curve) (pt : Point) : ecMul c 0 pt = .inf := rfl

/-- ecMul of 2k + b: double ecMul of k, and add P where b is 1. -/
theorem ecMul_bit (b : Bool) : ecMul c (Nat.bit b k) pt = ecMulStep c pt b (ecMul c k pt) := by
  by_cases h : Nat.bit b k = 0
  · obtain ⟨rfl, rfl⟩ := Nat.bit_eq_zero_iff.1 h
    rfl
  · rw [ecMul, bitlen_eq_size, Nat.size_bit h, ecMulLoop_bit, ← bitlen_eq_size]
    rfl

theorem ecMul_two_mul : ecMul c (2 * k) pt = ecDbl c (ecMul c k pt) := ecMul_bit false

theorem ecMul_two_mul_add_one : ecMul c (2 * k + 1) pt = ecAdd c (ecDbl c (ecMul c k pt)) pt := ecMul_bit true

theorem ecMul_one : ecMul c 1 pt = pt := ecMul_two_mul_add_one (k := 0)

theorem ecMul_inf : ecMul c k .inf = .inf := by
  induction k using Nat.binaryRec with
  | zero => rfl
  | bit b k ih =>
    rw [ecMul_bit, ih]
    cases b <;> rfl

end Multiplication

/-! ## What the point unit reads -/

section PointSources
variable {s : State} {b c : PReg}

theorem finish_readP_invalid (h : s.vp[b] = false) (rest : Point → Result State) :
    finish s (s.readP b >>= rest) = .next (stopped 0x03 s) := by
  rw [State.readP_invalid h]
  rfl

theorem finish_readP_valid (h : s.vp[b] = true) (rest : Point → Result State) :
    finish s (s.readP b >>= rest) = finish s (rest s.p[b]) := by
  rw [State.readP_valid h]
  rfl

/-- PADD stops on an invalid source, and writes the sum otherwise (R117). -/
theorem exec_padd (a : PReg) :
    ((s.vp[b] = false ∨ s.vp[c] = false) → exec (.padd a b c) s = .next (stopped 0x03 s)) ∧
      (s.vp[b] = true → s.vp[c] = true →
        exec (.padd a b c) s = .next (wrotePoint a (ecAdd s.build.curve s.p[b] s.p[c]) s)) := by
  refine ⟨fun h => ?_, fun hb hc => (finish_readP_valid hb _).trans (finish_readP_valid hc _)⟩
  cases hb : s.vp[b] with
  | false => exact finish_readP_invalid hb _
  | true => exact (finish_readP_valid hb _).trans (finish_readP_invalid (h.resolve_left (by simp [hb])) _)

/-- The pair a valid register holds is on the curve (10_state.md R26). -/
theorem PointsOnCurve.onCurve (hP : PointsOnCurve s) (hv : s.vp[b] = true) {x y : Int} (h : s.p[b] = .affine x y) :
    onCurve s.build.curve x y = true := by
  have hmem := hP b hv
  rwa [h] at hmem

theorem onCurve_iff_isOnCurve {k : Config.Curve} {x y : Int} : onCurve k x y = true ↔ IsOnCurve k x y :=
  decide_eq_true_iff

/-- A coordinate of a point fits a register of a legal build (R114). -/
theorem finish_result_coordinate {a : BReg} {v : Int} (hL : s.build.Legal)
    (hv : 0 ≤ v ∧ v < s.build.curve.p) : finish s (s.result a v) = .next (wrote a v s) := by
  refine finish_result_ok (lt_of_lt_of_le ?_ (Nat.pow_le_pow_right two_pos hL.p_fits))
  exact (Int.natAbs_lt_natAbs_of_nonneg_of_lt hv.1 hv.2).trans_le
    (le_of_eq_of_le (by omega) (lt_two_pow_bitlen s.build.curve.p.toNat).le)

end PointSources

/-- Settles O25, by the three cases of ecAdd and the slopes' congruences. -/
theorem pointAdditionLaw : Obligations.PointAdditionLaw := by
  unfold Obligations.PointAdditionLaw
  intro a b c s hL hP
  have hc := hL.curve_legal
  obtain ⟨hinvalid, hrun⟩ := exec_padd (s := s) (b := b) (c := c) a
  refine ⟨hinvalid, fun hb hv => ?_⟩
  rw [hrun hb hv]
  refine ⟨fun h => by rw [h, ecAdd_inf_left], fun h => by rw [h, ecAdd_inf_right], fun x₁ y₁ x₂ y₂ h₁ h₂ => ?_⟩
  have hon₁ : onCurve s.build.curve x₁ y₁ = true := hP.onCurve hb h₁
  have hon₂ : onCurve s.build.curve x₂ y₂ = true := hP.onCurve hv h₂
  rw [h₁, h₂]
  refine ⟨?_, ?_, fun hx => ?_⟩
  · rintro rfl h
    rw [ecAdd_of_inverse h]
  · rintro rfl h
    obtain rfl := hc.y_eq_of_not_inverse hon₁ hon₂ h
    have hy0 : y₁ ≠ 0 := by
      rintro rfl
      exact h (by simp)
    obtain ⟨lam, hlam, heq⟩ := hc.exists_ecDbl_eq_thirdPoint (x := x₁) (hc.onCurve_iff.1 hon₁).2.1 hy0
    exact ⟨rfl, lam, hlam, by rw [ecAdd_of_not_inverse h, heq]⟩
  · obtain ⟨lam, hlam, heq⟩ :=
      hc.exists_ecAdd_eq_thirdPoint (y₁ := y₁) (y₂ := y₂) (hc.onCurve_iff.1 hon₁).1 (hc.onCurve_iff.1 hon₂).1 hx
    exact ⟨lam, hlam, by rw [heq]⟩

/-- Settles O26, by the cases of ecDbl and the tangent's congruence. -/
theorem pointDoublingLaw : Obligations.PointDoublingLaw := by
  unfold Obligations.PointDoublingLaw
  intro a b s hL hP
  refine ⟨fun hb => finish_readP_invalid hb _, fun hb => ?_⟩
  have hrun : exec (.pdbl a b) s = .next (wrotePoint a (ecDbl s.build.curve s.p[b]) s) := finish_readP_valid hb _
  rw [hrun]
  refine ⟨fun h => by rw [h, ecDbl_inf], fun x y h => ?_⟩
  have hon : onCurve s.build.curve x y = true := hP.onCurve hb h
  rw [h]
  refine ⟨?_, fun hy0 => ?_⟩
  · rintro rfl
    rw [ecDbl_of_y_eq_zero]
  · obtain ⟨-, hy, -⟩ := hL.curve_legal.onCurve_iff.1 hon
    obtain ⟨lam, hlam, heq⟩ := hL.curve_legal.exists_ecDbl_eq_thirdPoint (x := x) hy hy0
    exact ⟨lam, hlam, by rw [heq]⟩

/-- Settles O27: the loop over the bits of 2k + b is the loop over those of k and one more step. -/
theorem scalarMultiplication : Obligations.ScalarMultiplication := by
  unfold Obligations.ScalarMultiplication
  refine ⟨fun a b c s => ⟨fun h => ?_, fun hb hv hneg => ?_, fun hb hv hpos => ?_⟩,
    fun c k pt => ⟨ecMul_zero c pt, ecMul_one, ecMul_inf, ecMul_two_mul, ecMul_two_mul_add_one⟩⟩
  · cases hb : s.vb[b] with
    | false => exact finish_readB_invalid hb _
    | true => exact (finish_readB_valid hb _).trans (finish_readP_invalid (h.resolve_left (by simp [hb])) _)
  · exact (finish_readB_valid hb _).trans ((finish_readP_valid hv _).trans (finish_requireNonNeg_neg hneg _))
  · exact (finish_readB_valid hb _).trans ((finish_readP_valid hv _).trans (finish_requireNonNeg_ok hpos _))

/-- Settles O23: PMK's check is R107's membership. -/
theorem pointConstructors : Obligations.PointConstructors := by
  unfold Obligations.PointConstructors
  intro a b c s
  refine ⟨rfl, rfl, fun hv => finish_readB2_not_valid2 hv _, fun hv hon => ?_, fun hv hoff => ?_⟩
  · exact (finish_readB2_valid2 hv _).trans (finish_require_holds (onCurve_iff_isOnCurve.2 hon) _)
  · have hfalse : onCurve s.build.curve s.b[b] s.b[c] = false :=
      Bool.eq_false_iff.2 fun hon => hoff (onCurve_iff_isOnCurve.1 hon)
    exact (finish_readB2_valid2 hv _).trans (finish_require_fails hfalse _)

/-- Settles O24: a coordinate is below p, and so within capacity. -/
theorem pointReads : Obligations.PointReads := by
  unfold Obligations.PointReads
  intro a b s hL hP
  refine ⟨fun hv => ⟨finish_readP_invalid hv _, finish_readP_invalid hv _, finish_readP_invalid hv _⟩,
    fun hv h => ?_, fun hv x y h => ?_⟩
  · refine ⟨(finish_readP_valid hv _).trans ?_, (finish_readP_valid hv _).trans ?_,
      (finish_readP_valid hv _).trans ?_⟩ <;> rw [h] <;> rfl
  · have hon : onCurve s.build.curve x y = true := hP.onCurve hv h
    obtain ⟨hx, hy, -⟩ := hL.curve_legal.onCurve_iff.1 hon
    refine ⟨(finish_readP_valid hv _).trans ?_, (finish_readP_valid hv _).trans ?_,
      (finish_readP_valid hv _).trans ?_⟩ <;> rw [h]
    · exact finish_result_coordinate hL hx
    · exact finish_result_coordinate hL hy
    · rfl

end Sys2Proof.Machine
end

section
/-! SUPPORT. O28, O29, 44_ec_point.md R107 to R110: on a legal curve without a singular point the machine's points
are the points of Mathlib's Weierstrass curve over the field of p elements, and ecAdd, ecDbl and ecMul are its group
law, so that they take over its laws. -/

namespace Sys2Proof.Config.Curve

open Sys2Proof.Machine WeierstrassCurve

/-- The curve y² = x³ + a·x + b over the field of p elements. -/
def weierstrass (c : Config.Curve) : Affine (ZMod c.p.toNat) where
  a₁ := 0
  a₂ := 0
  a₃ := 0
  a₄ := c.a
  a₆ := c.b

@[simp] theorem weierstrass_a₁ (c : Config.Curve) : c.weierstrass.a₁ = 0 := rfl
@[simp] theorem weierstrass_a₂ (c : Config.Curve) : c.weierstrass.a₂ = 0 := rfl
@[simp] theorem weierstrass_a₃ (c : Config.Curve) : c.weierstrass.a₃ = 0 := rfl
@[simp] theorem weierstrass_a₄ (c : Config.Curve) : c.weierstrass.a₄ = c.a := rfl
@[simp] theorem weierstrass_a₆ (c : Config.Curve) : c.weierstrass.a₆ = c.b := rfl

theorem weierstrass_negY (c : Config.Curve) (x y : ZMod c.p.toNat) : c.weierstrass.negY x y = -y := by simp

open Classical in
/-- The point of Mathlib's curve with these coordinates; the group's zero for INF, and where there is none. -/
noncomputable def groupPoint (c : Config.Curve) : Point → c.weierstrass.Point
  | .inf => 0
  | .affine x y =>
    if h : c.weierstrass.Nonsingular (x : ZMod c.p.toNat) (y : ZMod c.p.toNat) then .some _ _ h else 0

@[simp] theorem groupPoint_inf (c : Config.Curve) : c.groupPoint .inf = 0 := rfl

theorem groupPoint_affine {c : Config.Curve} {x y : Int} {u v : ZMod c.p.toNat} (hx : (x : ZMod c.p.toNat) = u)
    (hy : (y : ZMod c.p.toNat) = v) (h : c.weierstrass.Nonsingular u v) :
    c.groupPoint (.affine x y) = .some u v h := by
  subst hx hy
  exact dif_pos h

section Group
variable {c : Config.Curve} (hc : c.Legal)
include hc

theorem Legal.two_ne_zero : (2 : ZMod c.p.toNat) ≠ 0 := by
  have := hc.p_pos
  have := hc.p_mod_four
  simpa using hc.two_mul_ne_zero (y := 1) (by omega) one_ne_zero

/-- A curve without a singular point has a nonzero discriminant, −16·(4a³ + 27b²). -/
theorem Legal.discriminant_ne_zero (hns : c.Nonsingular) : c.weierstrass.Δ ≠ 0 := by
  have : Fact c.p.toNat.Prime := ⟨hc.p_prime⟩
  have h2 := hc.two_ne_zero
  rw [Config.Curve.Nonsingular, Ne, hc.emod_eq_zero_iff] at hns
  push_cast at hns
  have hΔ : c.weierstrass.Δ = -2 ^ 4 * (4 * (c.a * c.a * c.a) + 27 * (c.b * c.b)) := by
    simp only [Δ, b₂, b₄, b₆, b₈, weierstrass_a₁, weierstrass_a₂, weierstrass_a₃, weierstrass_a₄, weierstrass_a₆]
    ring
  rw [hΔ]
  exact mul_ne_zero (neg_ne_zero.2 (pow_ne_zero 4 h2)) hns

/-- A point of the curve (R107) is a nonsingular point of Mathlib's. -/
theorem Legal.nonsingular_of_onCurve (hns : c.Nonsingular) {x y : Int} (h : onCurve c x y = true) :
    c.weierstrass.Nonsingular (x : ZMod c.p.toNat) (y : ZMod c.p.toNat) := by
  have : Fact c.p.toNat.Prime := ⟨hc.p_prime⟩
  rw [← Affine.equation_iff_nonsingular_of_Δ_ne_zero (hc.discriminant_ne_zero hns), Affine.equation_iff]
  obtain ⟨-, -, heq⟩ := hc.onCurve_iff.1 h
  simpa using heq

theorem Legal.groupPoint_eq_some (hns : c.Nonsingular) {x y : Int} (h : onCurve c x y = true) :
    c.groupPoint (.affine x y) = .some _ _ (hc.nonsingular_of_onCurve hns h) :=
  groupPoint_affine rfl rfl _

theorem Legal.groupPoint_injective (hns : c.Nonsingular) {q r : Point} (hq : q.member c = true)
    (hr : r.member c = true) (h : c.groupPoint q = c.groupPoint r) : q = r := by
  cases q with
  | inf =>
    cases r with
    | inf => rfl
    | affine x y =>
      rw [hc.groupPoint_eq_some hns hr] at h
      exact absurd h.symm (Affine.Point.some_ne_zero _)
  | affine x₁ y₁ =>
    cases r with
    | inf =>
      rw [hc.groupPoint_eq_some hns hq] at h
      exact absurd h (Affine.Point.some_ne_zero _)
    | affine x₂ y₂ =>
      rw [hc.groupPoint_eq_some hns hq, hc.groupPoint_eq_some hns hr] at h
      obtain ⟨hx₁, hy₁, -⟩ := hc.onCurve_iff.1 hq
      obtain ⟨hx₂, hy₂, -⟩ := hc.onCurve_iff.1 hr
      injection h with hx hy
      rw [hc.eq_of_intCast_eq hx₁ hx₂ hx, hc.eq_of_intCast_eq hy₁ hy₂ hy]

section Field
variable [Fact c.p.toNat.Prime] (hns : c.Nonsingular)
include hns

/-- The third point of the line through two points that are not each other's inverse is their sum. -/
theorem Legal.groupPoint_thirdPoint {lam x₁ y₁ x₂ y₂ : Int} (h₁ : onCurve c x₁ y₁ = true)
    (h₂ : onCurve c x₂ y₂ = true)
    (hne : ¬ ((x₁ : ZMod c.p.toNat) = x₂ ∧ (y₁ : ZMod c.p.toNat) = c.weierstrass.negY x₂ y₂))
    (hlam : (lam : ZMod c.p.toNat) = c.weierstrass.slope x₁ x₂ y₁ y₂) :
    c.groupPoint (thirdPoint c.p lam x₁ y₁ x₂) = c.groupPoint (.affine x₁ y₁) + c.groupPoint (.affine x₂ y₂) := by
  rw [hc.groupPoint_eq_some hns h₁, hc.groupPoint_eq_some hns h₂, Affine.Point.add_some hne]
  have hx₃ : (((lam * lam - x₁ - x₂) % c.p : Int) : ZMod c.p.toNat) = c.weierstrass.addX x₁ x₂ lam := by
    rw [hc.intCast_emod]
    simp [sq]
  refine groupPoint_affine (hx₃.trans (by rw [hlam])) ?_ _
  rw [hc.intCast_emod, ← hlam, Affine.addY, Affine.negAddY, weierstrass_negY, ← hx₃]
  push_cast
  ring

theorem Legal.groupPoint_ecDbl {q : Point} (hq : q.member c = true) :
    c.groupPoint (ecDbl c q) = c.groupPoint q + c.groupPoint q := by
  cases q with
  | inf => exact (add_zero 0).symm
  | affine x y =>
    obtain ⟨-, hy, -⟩ := hc.onCurve_iff.1 hq
    by_cases hy0 : y = 0
    · subst hy0
      rw [ecDbl_of_y_eq_zero, hc.groupPoint_eq_some hns hq, Affine.Point.add_self_of_Y_eq (by simp)]
      rfl
    · obtain ⟨lam, hlam, heq⟩ := hc.exists_ecDbl_eq_thirdPoint (x := x) hy hy0
      have h2y := hc.two_mul_ne_zero hy hy0
      rw [hc.emod_eq_zero_iff] at hlam
      push_cast at hlam h2y
      have hne : (y : ZMod c.p.toNat) ≠ c.weierstrass.negY x y := fun h =>
        h2y (by rw [two_mul]; exact eq_neg_iff_add_eq_zero.1 (h.trans (weierstrass_negY ..)))
      rw [heq]
      refine hc.groupPoint_thirdPoint hns hq hq (fun h => hne h.2) ?_
      rw [Affine.slope_of_Y_ne rfl hne, weierstrass_negY, sub_neg_eq_add, ← two_mul, eq_div_iff h2y]
      simp only [weierstrass_a₁, weierstrass_a₂, weierstrass_a₄]
      linear_combination hlam

theorem Legal.groupPoint_ecAdd {q r : Point} (hq : q.member c = true) (hr : r.member c = true) :
    c.groupPoint (ecAdd c q r) = c.groupPoint q + c.groupPoint r := by
  cases q with
  | inf => exact (zero_add _).symm
  | affine x₁ y₁ =>
    cases r with
    | inf => exact (add_zero _).symm
    | affine x₂ y₂ =>
      obtain ⟨hx₁, -, -⟩ := hc.onCurve_iff.1 hq
      obtain ⟨hx₂, -, -⟩ := hc.onCurve_iff.1 hr
      by_cases hx : x₁ = x₂
      · subst hx
        by_cases hy : (y₁ + y₂) % c.p = 0
        · rw [ecAdd_of_inverse hy, hc.groupPoint_eq_some hns hq, hc.groupPoint_eq_some hns hr]
          rw [hc.emod_eq_zero_iff, Int.cast_add] at hy
          exact (Affine.Point.add_of_Y_eq rfl (by simpa using eq_neg_of_add_eq_zero_left hy)).symm
        · obtain rfl := hc.y_eq_of_not_inverse hq hr hy
          rw [ecAdd_of_not_inverse hy, hc.groupPoint_ecDbl hns hq]
      · obtain ⟨lam, hlam, heq⟩ := hc.exists_ecAdd_eq_thirdPoint (y₁ := y₁) (y₂ := y₂) hx₁ hx₂ hx
        have hd := hc.intCast_sub_ne_zero hx₂ hx₁ (Ne.symm hx)
        rw [hc.emod_eq_zero_iff] at hlam
        push_cast at hlam hd
        have hne : (x₁ : ZMod c.p.toNat) ≠ x₂ := sub_ne_zero.1 hd
        rw [heq]
        refine hc.groupPoint_thirdPoint hns hq hr (fun h => hne h.1) ?_
        rw [Affine.slope_of_X_ne hne, eq_div_iff hd]
        linear_combination -hlam

theorem Legal.groupPoint_ecMul {k : Nat} {q : Point} (hq : q.member c = true) :
    c.groupPoint (ecMul c k q) = k • c.groupPoint q := by
  induction k using Nat.binaryRec with
  | zero => exact (zero_nsmul _).symm
  | bit b k ih =>
    have hk := hc.ecMul_member (k := k) hq
    rw [ecMul_bit]
    cases b with
    | false =>
      show c.groupPoint (ecDbl c (ecMul c k q)) = (2 * k) • c.groupPoint q
      rw [hc.groupPoint_ecDbl hns hk, ih, ← add_nsmul, two_mul]
    | true =>
      show c.groupPoint (ecAdd c (ecDbl c (ecMul c k q)) q) = (2 * k + 1) • c.groupPoint q
      rw [hc.groupPoint_ecAdd hns (hc.ecDbl_member hk) hq, hc.groupPoint_ecDbl hns hk, ih, ← add_nsmul, ← two_mul,
        succ_nsmul]

/-- The order of G is n: n is prime, n·G is INF (R13), and G is not INF. -/
theorem Legal.addOrderOf_basePoint : addOrderOf (c.groupPoint (basePoint c)) = c.n.toNat := by
  have : Fact c.n.toNat.Prime := ⟨hc.n_prime⟩
  refine addOrderOf_eq_prime ?_ ?_
  · rw [← hc.groupPoint_ecMul hns hc.basePoint_member, hc.base_order, groupPoint_inf]
  · rw [basePoint, hc.groupPoint_eq_some hns hc.base_on]
    exact Affine.Point.some_ne_zero _

end Field

/-- ecMul(k, G) is INF exactly at the multiples of n (R110). -/
theorem Legal.ecMul_basePoint_eq_inf_iff (hns : c.Nonsingular) {k : Nat} :
    ecMul c k (basePoint c) = .inf ↔ c.n.toNat ∣ k := by
  have : Fact c.p.toNat.Prime := ⟨hc.p_prime⟩
  rw [← hc.addOrderOf_basePoint hns, addOrderOf_dvd_iff_nsmul_eq_zero,
    ← hc.groupPoint_ecMul hns hc.basePoint_member]
  exact ⟨fun h => by rw [h, groupPoint_inf],
    hc.groupPoint_injective hns (r := .inf) (hc.ecMul_member hc.basePoint_member) rfl⟩

end Group

end Sys2Proof.Config.Curve

namespace Sys2Proof.Machine

/-- Settles O28: `groupPoint` is injective on the curve and turns ecAdd into the addition of Mathlib's group. -/
theorem pointsFormAnAbelianGroup : Obligations.PointsFormAnAbelianGroup := by
  unfold Obligations.PointsFormAnAbelianGroup
  intro c hc hns p q r hp hq hr
  have : Fact c.p.toNat.Prime := ⟨hc.p_prime⟩
  have hpq := hc.ecAdd_member hp hq
  have hqr := hc.ecAdd_member hq hr
  refine ⟨hpq, ?_, ?_, rfl, ?_, ?_⟩
  · refine hc.groupPoint_injective hns hpq (hc.ecAdd_member hq hp) ?_
    rw [hc.groupPoint_ecAdd hns hp hq, hc.groupPoint_ecAdd hns hq hp, add_comm]
  · refine hc.groupPoint_injective hns (hc.ecAdd_member hpq hr) (hc.ecAdd_member hp hqr) ?_
    rw [hc.groupPoint_ecAdd hns hpq hr, hc.groupPoint_ecAdd hns hp hq, hc.groupPoint_ecAdd hns hp hqr,
      hc.groupPoint_ecAdd hns hq hr, add_assoc]
  · refine hc.groupPoint_injective hns (hc.ecAdd_member hp hp) (hc.ecDbl_member hp) ?_
    rw [hc.groupPoint_ecAdd hns hp hp, hc.groupPoint_ecDbl hns hp]
  · rintro x y rfl
    exact ecAdd_of_inverse (by simp)

/-- Settles O29: ecMul is the multiple in Mathlib's group, where G has order n. -/
theorem scalarsActOnTheGroup : Obligations.ScalarsActOnTheGroup := by
  unfold Obligations.ScalarsActOnTheGroup
  intro c hc hns
  have : Fact c.p.toNat.Prime := ⟨hc.p_prime⟩
  refine ⟨fun p hp j k => ?_, fun k => ⟨?_, hc.ecMul_basePoint_eq_inf_iff hns⟩⟩
  · have hj := hc.ecMul_member (k := j) hp
    have hk := hc.ecMul_member (k := k) hp
    constructor
    · refine hc.groupPoint_injective hns (hc.ecMul_member hp) (hc.ecAdd_member hj hk) ?_
      rw [hc.groupPoint_ecAdd hns hj hk, hc.groupPoint_ecMul hns hp, hc.groupPoint_ecMul hns hp,
        hc.groupPoint_ecMul hns hp, add_nsmul]
    · refine hc.groupPoint_injective hns (hc.ecMul_member hp) (hc.ecMul_member hk) ?_
      rw [hc.groupPoint_ecMul hns hp, hc.groupPoint_ecMul hns hk, hc.groupPoint_ecMul hns hp, mul_nsmul']
  · have hG := hc.basePoint_member
    refine hc.groupPoint_injective hns (hc.ecMul_member hG) (hc.ecMul_member hG) ?_
    rw [hc.groupPoint_ecMul hns hG, hc.groupPoint_ecMul hns hG, ← hc.addOrderOf_basePoint hns, mod_addOrderOf_nsmul]

end Sys2Proof.Machine
end

section
/-! SUPPORT. O32, 45_ecdsa.md R121: the engine in NONCE_WAIT. -/

namespace Sys2Proof.Machine

/-- A step in NONCE_WAIT waits for the nonce, or goes on with the SIGN it holds (logs 9, 10). -/
theorem engineStep_nonceWait {s : State} {held : SignOperands} (hl : s.resetLine = false)
    (hr : s.runState = .nonceWait held) :
    (s.nonceValid = false → engineStep s = .next s) ∧
      (s.nonceValid = true →
        engineStep s = exec (.sign held.a held.b held.c held.lows) { s with runState := .run }) := by
  refine ⟨fun hn => ?_, fun hn => ?_⟩ <;> simp [engineStep, hl, hr, hn]

/-- Settles O32: the turn is the engine's, which looks at NONCE_VALID. -/
theorem signWaitsForItsNonce : Obligations.SignWaitsForItsNonce := by
  unfold Obligations.SignWaitsForItsNonce
  intro s s' held hm hl hr
  rw [hm.step_eq]
  obtain rfl := hm.eq_advance
  exact engineStep_nonceWait (s := s.advance) hl hr

end Sys2Proof.Machine
end

section
/-! SUPPORT. 45_ecdsa.md R120 to R124: the scalars of the ECDSA unit are the integers mod n, a prime field; every
residue fits a register, and every scalar in [1, n − 1] has an inverse. -/

namespace Sys2Proof.Config

open Sys2Proof.Machine

/-- n has at most 256 bits, and a register has at least as many (00_scope.md R9, R13). -/
theorem Build.Legal.n_fits {k : Build} (hL : k.Legal) : k.curve.n.natAbs < 2 ^ k.maxBits := by
  have hn := hL.curve_legal.n_pos
  calc k.curve.n.natAbs = k.curve.n.toNat := by omega
    _ < 2 ^ bitlen k.curve.n.toNat := lt_two_pow_bitlen _
    _ ≤ 2 ^ k.maxBits := Nat.pow_le_pow_right two_pos (hL.curve_legal.n_bits.trans hL.maxBits_range.1)

namespace Curve

section Scalars
variable {c : Config.Curve} (hc : c.Legal) {x y : Int}
include hc

theorem Legal.two_le_n : 2 ≤ c.n := by
  have := hc.n_prime.two_le
  omega

theorem Legal.one_emod_n : 1 % c.n = 1 := Int.emod_eq_of_lt zero_le_one hc.two_le_n

theorem Legal.natCast_n : (c.n.toNat : Int) = c.n := Int.toNat_of_nonneg hc.n_pos.le

theorem Legal.emod_n_eq_iff : x % c.n = y % c.n ↔ (x : ZMod c.n.toNat) = y := by
  rw [ZMod.intCast_eq_intCast_iff', hc.natCast_n]

theorem Legal.emod_n_eq_one_iff : x % c.n = 1 ↔ (x : ZMod c.n.toNat) = 1 := by
  rw [← hc.one_emod_n, hc.emod_n_eq_iff, Int.cast_one]

/-- Reduction mod n is the cast to the field of scalars. -/
theorem Legal.intCast_emod_n (x : Int) : ((x % c.n : Int) : ZMod c.n.toNat) = x :=
  hc.emod_n_eq_iff.1 (Int.emod_emod_of_dvd x dvd_rfl)

theorem Legal.emod_n_range (x : Int) : 0 ≤ x % c.n ∧ x % c.n < c.n :=
  ⟨Int.emod_nonneg x hc.n_pos.ne', Int.emod_lt_of_pos x hc.n_pos⟩

theorem Legal.inRange_emod_n (h : x % c.n ≠ 0) : InRange c (x % c.n) := by
  obtain ⟨h0, hlt⟩ := hc.emod_n_range x
  exact ⟨by omega, by omega⟩

theorem Legal.intCast_ne_zero (hx : InRange c x) : (x : ZMod c.n.toNat) ≠ 0 := by
  obtain ⟨h1, hlt⟩ := hx
  rw [← Int.cast_zero, Ne, ← hc.emod_n_eq_iff, Int.emod_eq_of_lt (by omega) (by omega), Int.zero_emod]
  omega

/-- Mod n, `modInv` inverts every scalar in range (00_scope.md R17). -/
theorem Legal.mul_modInv_n (hx : InRange c x) : x * modInv x c.n % c.n = 1 := by
  obtain ⟨h1, hlt⟩ := hx
  have hmod : x % c.n = x := Int.emod_eq_of_lt (by omega) (by omega)
  have hg : Nat.gcd (x % c.n).toNat c.n.toNat = 1 :=
    (Nat.coprime_of_lt_prime (by omega) (by omega) hc.n_prime).symm
  rw [(modInv_spec hc.n_pos hg).2.2, hc.one_emod_n]

end Scalars

end Curve

end Sys2Proof.Config

namespace Sys2Proof.Machine

theorem inScalarRange_iff {c : Config.Curve} {k : Int} : inScalarRange c k = true ↔ InRange c k := decide_eq_true_iff

theorem not_inScalarRange_iff {c : Config.Curve} {k : Int} : inScalarRange c k = false ↔ ¬ InRange c k :=
  decide_eq_false_iff_not

end Sys2Proof.Machine
end

section
/-! SUPPORT. O30, 45_ecdsa.md R120: the digest's leftmost bits. -/

namespace Sys2Proof.Machine

theorem IsBitLength.eq_bitlen {v L : Nat} (h : IsBitLength v L) : bitlen v = L :=
  le_antisymm (bitlen_le h.1) (h.2 _ (lt_two_pow_bitlen v))

theorem exec_digz_eq (a : BReg) (addr : BitVec 12) (len : BitVec 8) (s : State) :
    exec (.digz a addr len) s = memReadThen addr.toNat len.toNat s fun bytes t =>
      t.result a ((leftmostBits s.build.curve len.toNat (beValue bytes) : Nat) % s.build.curve.n) := rfl

/-- Within DMEM, DIGZ writes a residue mod n, which fits. -/
theorem exec_digz {a : BReg} {addr : BitVec 12} {len : BitVec 8} {s : State} (hL : s.build.Legal)
    (h : addr.toNat + len.toNat ≤ s.build.dmemBytes) :
    exec (.digz a addr len) s = .next (wrote a
      ((leftmostBits s.build.curve len.toNat (bigEndian (s.dmemBytes addr.toNat len.toNat)) : Nat) % s.build.curve.n)
      (drew len.toNat s)) := by
  obtain ⟨h0, hlt⟩ := hL.curve_legal.emod_n_range
    (leftmostBits s.build.curve len.toNat (beValue (s.dmemBytes addr.toNat len.toNat)) : Nat)
  rw [exec_digz_eq, memReadThen_inDmem h, bigEndian_eq_beValue]
  exact finish_result_residue hL.n_fits h0 hlt

/-- Settles O30: the two cases of the leftmost bits, by bitlen(n). -/
theorem digestReduction : Obligations.DigestReduction := by
  unfold Obligations.DigestReduction
  intro a addr len s L hL hbits
  obtain rfl := hbits.eq_bitlen
  refine ⟨fun h => ?_, fun h => ?_⟩
  · rw [exec_digz_eq, memReadThen_pastDmem h]
  · refine ⟨s.dmemBytes addr.toNat len.toNat, s.dmemBytes_length _ _, dmemBytes_mayRead _ _, fun hlong => ?_,
      fun hshort => ?_⟩
    · rw [exec_digz hL h, leftmostBits, if_pos hlong]
    · rw [exec_digz hL h, leftmostBits, if_neg hshort.not_gt]

end Sys2Proof.Machine
end

section
/-! SUPPORT. O31, 45_ecdsa.md R121, R122: SIGN's checks, the nonce it consumes, one attempt with it, and the register
group it writes. -/

namespace Sys2Proof.Machine

section Sign
variable {s u : State} {a b c : BReg} {lows : Bool} {held : SignOperands} {d z r sg v : Int} {k : Nat}

/-! ## The nonce (10_state.md R45) -/

/-- Word by word from the least significant, the sum of R45. -/
theorem foldr_words_eq_sum (l : List Word) :
    l.foldr (fun w k => w.toNat + k * 2 ^ 32) 0 = ∑ i : Fin l.length, l[i].toNat * 2 ^ (32 * i.val) := by
  induction l with
  | nil => rfl
  | cons w l ih =>
    rw [List.foldr_cons, ih, Finset.sum_mul]
    simp only [List.length_cons, Fin.sum_univ_succ]
    exact congr_arg₂ _ (by simp) (Finset.sum_congr rfl fun i _ => by simp; ring)

theorem nonce_eq_nonceSum (s : State) : s.nonce = nonceSum s := by
  rw [State.nonce, foldr_words_eq_sum]
  exact Fintype.sum_equiv (finCongr (by simp)) _ _ fun i => by simp

/-! ## The checks before the nonce -/

theorem groupFits_three (ha : a.val ≤ 13) : groupFits a 3 = true := decide_eq_true (by omega)

theorem signOperands_not_valid2 (ha : a.val ≤ 13) (hv : ¬ Valid2 s b c) :
    signOperands a b c s = .error .uninitOperand := by
  rw [signOperands, groupFits_three ha, readB2_of_not_valid2 hv]
  rfl

theorem signOperands_keyRange (ha : a.val ≤ 13) (hv : Valid2 s b c) (hd : ¬ InRange s.build.curve s.b[b]) :
    signOperands a b c s = .error .keyRange := by
  rw [signOperands, groupFits_three ha, readB2_of_valid2 hv, require_true, Result.bind_ok, Result.bind_ok]
  exact Result.bind_eq_error.2 (.inl (require_eq_error.2 ⟨not_inScalarRange_iff.2 hd, rfl⟩))

theorem exec_sign (a b c : BReg) (lows : Bool) (s : State) : exec (.sign a b c lows) s = execSign a b c lows s := rfl

theorem exec_sign_error {e : EngineError} (h : signOperands a b c s = .error e) :
    exec (.sign a b c lows) s = .next (stopped e.code s) := by
  rw [exec_sign, execSign, h]
  rfl

theorem exec_sign_noNonce {dz : Int × Int} (h : signOperands a b c s = .ok dz) (hn : s.nonceValid = false) :
    exec (.sign a b c lows) s = .next (waiting ⟨a, b, c, lows⟩ s) := by
  simp [exec_sign, execSign, h, hn, awaitNonce_eq_waiting]

theorem exec_sign_nonce (h : signOperands a b c s = .ok (d, z)) (hn : s.nonceValid = true) :
    exec (.sign a b c lows) s = signWith ⟨a, b, c, lows⟩ d z (nonceSum s) (consumed s) := by
  simp [exec_sign, execSign, h, hn, consumeNonce_eq_consumed, nonce_eq_nonceSum]

/-! ## One attempt (R122) -/

section Attempt
variable {curve : Config.Curve} {x y : Int}

theorem signAttempt_r_zero (hR : ecMul curve k (basePoint curve) = .affine x y) (hr : x % curve.n = 0) :
    signAttempt curve d z k lows = .retry := by
  simp [signAttempt, hR, hr]

theorem signAttempt_s_zero (hR : ecMul curve k (basePoint curve) = .affine x y)
    (hs : modInv k curve.n * (z + x % curve.n * d) % curve.n = 0) : signAttempt curve d z k lows = .retry := by
  simp [signAttempt, hR, hs]

theorem signAttempt_lowS (hR : ecMul curve k (basePoint curve) = .affine x y) (hr : x % curve.n ≠ 0)
    (hs : modInv k curve.n * (z + x % curve.n * d) % curve.n ≠ 0) :
    signAttempt curve d z k lows = lowS curve lows (x % curve.n)
      (modInv k curve.n * (z + x % curve.n * d) % curve.n) (recoveryId curve x y) := by
  simp [signAttempt, hR, hr, hs]

theorem lowS_kept (h : lows = false ∨ 2 * sg ≤ curve.n) : lowS curve lows r sg v = .signed r sg v := by
  refine if_neg ?_
  rintro ⟨hl, hhigh⟩
  obtain h | h := h
  · simp [h] at hl
  · omega

/-- Where s is negated, bit 0 of v flips. -/
theorem lowS_negated (hl : lows = true) (h : curve.n < 2 * sg) :
    lowS curve lows r sg (recoveryId curve x y) =
      .signed r (curve.n - sg) (1 - y % 2 + (if curve.n ≤ x then 2 else 0)) := by
  rw [lowS, if_pos ⟨hl, h⟩]
  congr 1
  simp only [recoveryId, ge_iff_le]
  split_ifs <;> omega

theorem recoveryId_eq (curve : Config.Curve) (x y : Int) :
    recoveryId curve x y = y % 2 + (if curve.n ≤ x then 2 else 0) := by
  simp only [recoveryId, ge_iff_le]
  split_ifs <;> rfl

end Attempt

/-! ## The end of an attempt -/

theorem signWith_out_of_range (hk : ¬ InRange u.build.curve k) :
    signWith held d z k u = .next (stopped 0x0B u) := by
  rw [signWith, not_inScalarRange_iff.2 hk]
  rfl

theorem signWith_retry (hk : InRange u.build.curve k)
    (h : signAttempt u.build.curve d z k held.lows = .retry) : signWith held d z k u = .next (waiting held u) := by
  simp [signWith, inScalarRange_iff.2 hk, h, awaitNonce_eq_waiting]

theorem setIfInBounds_eq_set {α : Type} (xs : Vector α 16) {i : Nat} (x : α) (h : i < 16) :
    xs.setIfInBounds i x = xs.set i x h := by
  ext j hj
  simp [Vector.getElem_setIfInBounds, Vector.getElem_set]

/-- The group's three registers are a, a + 1 and a + 2 (30_encoding.md R73). -/
theorem setB_group_eq_wroteSignature (ha : a.val ≤ 13) (r sg v : Int) (s : State) :
    (((s.setB (groupReg a 0) r).setB (groupReg a 1) sg).setB (groupReg a 2) v).nextPc = wroteSignature a r sg v s := by
  have h0 := groupReg_val (groupFits_three ha) (j := 0) (by decide)
  have h1 := groupReg_val (groupFits_three ha) (j := 1) (by decide)
  have h2 := groupReg_val (groupFits_three ha) (j := 2) (by decide)
  simp only [State.setB, State.nextPc, wroteSignature, h0, h1, h2, Nat.add_zero,
    setIfInBounds_eq_set _ _ (show a.val + 1 < 16 by omega), setIfInBounds_eq_set _ _ (show a.val + 2 < 16 by omega)]

theorem fits_of_lt_n (hL : s.build.Legal) (h0 : 0 ≤ v) (hlt : v < s.build.curve.n) : s.fits v = true :=
  fits_iff.2 ((Int.natAbs_lt_natAbs_of_nonneg_of_lt h0 hlt).trans hL.n_fits)

theorem fits_of_le_three (hL : s.build.Legal) (h0 : 0 ≤ v) (h3 : v ≤ 3) : s.fits v = true :=
  fits_iff.2 (by
    calc v.natAbs < 2 ^ 2 := by omega
      _ ≤ 2 ^ s.build.maxBits := Nat.pow_le_pow_right two_pos (by have := hL.maxBits_range.1; omega))

/-- On a legal build the capacity checks of the three writes pass (log 20). -/
theorem signWith_signed (hL : u.build.Legal) (ha : held.a.val ≤ 13) (hk : InRange u.build.curve k)
    (h : signAttempt u.build.curve d z k held.lows = .signed r sg v) (hr : 0 ≤ r ∧ r < u.build.curve.n)
    (hs : 0 ≤ sg ∧ sg < u.build.curve.n) (hv : 0 ≤ v ∧ v ≤ 3) :
    signWith held d z k u = .next (wroteSignature held.a r sg v u) := by
  have hw := (State.writeSignature_eq_ok (a := held.a)).2 ⟨fits_of_lt_n hL hr.1 hr.2, fits_of_lt_n hL hs.1 hs.2,
    fits_of_le_three hL hv.1 hv.2, rfl⟩
  rw [setB_group_eq_wroteSignature ha] at hw
  simp [signWith, inScalarRange_iff.2 hk, h, hw]

end Sign

/-- One attempt with a consumed nonce, clause by clause (R122). -/
theorem signsWith_nonceSum {a b c : BReg} {lows : Bool} {s : State} (hL : s.build.Legal) (ha : a.val ≤ 13)
    (hv : Valid2 s b c) (hd : InRange s.build.curve s.b[b]) (hn : s.nonceValid = true) :
    SignsWith (nonceSum s) a b c lows s (consumed s) := by
  have hc := hL.curve_legal
  have hrun (z : Int) (hz : z = s.b[c] % s.build.curve.n) :
      exec (.sign a b c lows) s = signWith ⟨a, b, c, lows⟩ s.b[b] z (nonceSum s) (consumed s) :=
    exec_sign_nonce (signOperands_eq_ok.2 ⟨groupFits_three ha, hv, inScalarRange_iff.2 hd, by rw [hz]⟩) hn
  rintro _ z rfl hz
  rw [hrun z hz]
  refine ⟨signWith_out_of_range (u := consumed s), fun hk x y hR => ⟨fun hr => ?_, fun hr => ?_⟩⟩
  · exact signWith_retry (u := consumed s) hk (signAttempt_r_zero hR hr)
  · have hrange := hc.emod_n_range x
    refine ⟨modInv (nonceSum s) s.build.curve.n, _, _, hc.mul_modInv_n hk, rfl, rfl, fun hs => ?_, fun hs hlow => ?_,
      fun hs hl hhigh => ?_⟩
    · exact signWith_retry (u := consumed s) hk (signAttempt_s_zero hR hs)
    · refine signWith_signed (u := consumed s) hL ha hk ?_ hrange (hc.emod_n_range _) (by split_ifs <;> omega)
      exact (signAttempt_lowS hR hr hs).trans ((lowS_kept hlow).trans (by rw [recoveryId_eq]))
    · have hsrange := hc.inRange_emod_n hs
      refine signWith_signed (u := consumed s) hL ha hk ?_ hrange ?_ (by split_ifs <;> omega)
      · exact (signAttempt_lowS hR hr hs).trans (lowS_negated hl hhigh)
      · obtain ⟨h1, hle⟩ := hsrange
        exact ⟨show (0 : Int) ≤ s.build.curve.n - _ by omega, show _ < s.build.curve.n by omega⟩

/-- Settles O31: the checks in R122's order, and then the attempt. -/
theorem signFollowsItsRule : Obligations.SignFollowsItsRule := by
  unfold Obligations.SignFollowsItsRule
  intro a b c lows s hL ha
  refine ⟨fun hv => exec_sign_error (signOperands_not_valid2 ha hv),
    fun hv hd => exec_sign_error (signOperands_keyRange ha hv hd), fun hv hd hn => ?_,
    fun hv hd hn => signsWith_nonceSum hL ha hv hd hn⟩
  exact exec_sign_noNonce (signOperands_eq_ok.2 ⟨groupFits_three ha, hv, inScalarRange_iff.2 hd, rfl⟩) hn

end Sys2Proof.Machine
end

section
/-! SUPPORT. O33, 45_ecdsa.md R123, 30_encoding.md R73: the registers VERIFY and RECOVER read, and the Boolean of
VERIFY with the inverse given by its property. -/

namespace Sys2Proof.Machine

section Sources
variable {α : Type} {s : State} {a : PReg} {b b₁ c : BReg}

theorem finish_bind_error {r : Result α} {e : EngineError} (h : r = .error e) (rest : α → Result State) :
    finish s (r >>= rest) = .next (stopped e.code s) := by
  rw [h]
  rfl

theorem finish_bind_ok {r : Result α} {x : α} (h : r = .ok x) (rest : α → Result State) :
    finish s (r >>= rest) = finish s (rest x) := by
  rw [h]
  rfl

/-- Two reads in a row are the read of two sources. -/
theorem readB_readB_eq_readB2 (s : State) (b c : BReg) (rest : Int → Int → Result α) :
    (s.readB b >>= fun x => s.readB c >>= fun y => rest x y) = s.readB2 b c >>= fun xy => rest xy.1 xy.2 := by
  unfold State.readB2
  cases s.readB b with
  | error e => rfl
  | ok x => cases s.readB c <;> rfl

theorem groupReg_eq {j : Nat} (h : b₁.val = b.val + j) : groupReg b j = b₁ :=
  Fin.ext ((congrArg (· % 16) h.symm).trans (Nat.mod_eq_of_lt b₁.isLt))

/-- VERIFY's sources, then T (R123). -/
theorem exec_verify_eq (hb : b₁.val = b.val + 1) :
    exec (.verify a b c) s = finish s (s.readP a >>= fun q => s.readB2 b b₁ >>= fun rs => s.readB c >>= fun z =>
      .ok (wroteT (verifyPred s.build.curve q rs.1 rs.2 (z % s.build.curve.n)) s)) := by
  have hfits : groupFits b 2 = true := decide_eq_true (by omega)
  show execVerify a b c s = _
  simp only [execVerify, hfits, groupReg_eq (b := b) (j := 0) rfl, groupReg_eq hb, require_true, Result.bind_ok,
    readB_readB_eq_readB2 s b b₁]
  rfl

end Sources

end Sys2Proof.Machine

namespace Sys2Proof.Config.Curve

open Sys2Proof.Machine

section Verify
variable {c : Config.Curve} (hc : c.Legal) {q : Point} {r s z : Int}
include hc

/-- Any two inverses mod n give the same multiples mod n. -/
theorem Legal.mul_inverse_emod_n_eq {w w' : Int} (h : s * w % c.n = 1) (h' : s * w' % c.n = 1) (x : Int) :
    x * w % c.n = x * w' % c.n := by
  rw [hc.emod_n_eq_one_iff, Int.cast_mul] at h h'
  rw [hc.emod_n_eq_iff]
  push_cast
  linear_combination (x * w' : ZMod c.n.toNat) * h - (x * w : ZMod c.n.toNat) * h'

/-- The machine's Boolean is R123's, whichever inverse of s is taken. -/
theorem Legal.verifyPred_iff_accepts : verifyPred c q r s z = true ↔ Accepts c q r s z := by
  simp only [verifyPred]
  split_ifs with h
  · simp only [Bool.and_eq_true, inScalarRange_iff, decide_eq_true_eq] at h
    obtain ⟨⟨hr, hs⟩, hq⟩ := h
    have hinv := hc.mul_modInv_n hs
    constructor
    · intro heq
      split at heq
      · cases heq
      · rename_i x y hadd
        exact ⟨hr, hs, hq, _, x, y, hinv, hadd, of_decide_eq_true heq⟩
    · rintro ⟨-, -, -, w, x, y, hw, hadd, hx⟩
      rw [hc.mul_inverse_emod_n_eq hw hinv z, hc.mul_inverse_emod_n_eq hw hinv r] at hadd
      simp only [hadd, hx, decide_true]
  · simp only [Bool.and_eq_true, inScalarRange_iff, decide_eq_true_eq] at h
    exact ⟨False.elim, fun ⟨hr, hs, hq, _⟩ => absurd ⟨⟨hr, hs⟩, hq⟩ h⟩

end Verify

end Sys2Proof.Config.Curve

namespace Sys2Proof.Machine

/-- Settles O33: the checks of the sources, and then the Boolean. -/
theorem verifyFollowsItsRule : Obligations.VerifyFollowsItsRule := by
  unfold Obligations.VerifyFollowsItsRule
  intro a b b₁ c s hL hb
  rw [exec_verify_eq hb]
  refine ⟨fun hinvalid => ?_, fun ha hv hz => ?_⟩
  · by_cases ha : s.vp[a] = true
    · rw [finish_readP_valid ha]
      by_cases hv : Valid2 s b b₁
      · have hz : s.vb[c] = false := Bool.eq_false_iff.2 fun hz => hinvalid ⟨ha, hv, hz⟩
        rw [finish_readB2_valid2 hv, finish_readB_invalid hz]
      · rw [finish_readB2_not_valid2 hv]
    · rw [finish_readP_invalid (Bool.eq_false_iff.2 ha)]
  · rw [finish_readP_valid ha, finish_readB2_valid2 hv, finish_readB_valid hz, finish_ok,
      ← hL.curve_legal.verifyPred_iff_accepts]
    exact ⟨fun h => by rw [h], fun h => by rw [Bool.eq_false_iff.2 h]⟩

end Sys2Proof.Machine
end

section
/-! SUPPORT. O34, 45_ecdsa.md R124: the square root RECOVER takes, by its property, the candidate point, and the key. -/

namespace Sys2Proof.Config.Curve

open Sys2Proof.Machine

/-- The number RECOVER squares and compares: alpha^((p+1)/4) mod p (log 16). -/
def squareRoot (c : Config.Curve) (alpha : Int) : Int :=
  (powMod alpha.toNat ((c.p.toNat + 1) / 4) c.p.toNat : Nat)

theorem rootOfParity?_eq (c : Config.Curve) (alpha parity : Int) :
    rootOfParity? c alpha parity =
      if c.squareRoot alpha * c.squareRoot alpha % c.p = alpha then
        if c.squareRoot alpha % 2 = parity then some (c.squareRoot alpha)
        else if c.squareRoot alpha ≠ 0 ∧ (c.p - c.squareRoot alpha) % 2 = parity then
          some (c.p - c.squareRoot alpha)
        else none
      else none := rfl

section Root
variable {c : Config.Curve} (hc : c.Legal) {x y parity root : Int}
include hc

/-- For p ≡ 3 (mod 4), (y²)^((p+1)/4) is a square root of y²: its square is y^(p+1) (log 16). -/
theorem Legal.sq_pow_quarter_sq (y : ZMod c.p.toNat) : ((y ^ 2) ^ ((c.p.toNat + 1) / 4)) ^ 2 = y ^ 2 := by
  have : Fact c.p.toNat.Prime := ⟨hc.p_prime⟩
  have hp := hc.p_pos
  have hmod := hc.p_mod_four
  have hexp : 2 * ((c.p.toNat + 1) / 4 * 2) = c.p.toNat + 1 := by omega
  rw [← pow_mul, ← pow_mul, hexp, pow_succ, ZMod.pow_card, sq]

theorem Legal.mul_self_emod_eq_iff {y z : Int} : y * y % c.p = z % c.p ↔ (y : ZMod c.p.toNat) ^ 2 = z := by
  have h := ZMod.intCast_eq_intCast_iff' (y * y) z c.p.toNat
  rw [hc.natCast_p, Int.cast_mul, ← sq] at h
  exact h.symm

theorem Legal.squareRoot_range (alpha : Int) : 0 ≤ c.squareRoot alpha ∧ c.squareRoot alpha < c.p := by
  have hlt : powMod alpha.toNat ((c.p.toNat + 1) / 4) c.p.toNat < c.p.toNat := by
    rw [powMod_eq]
    exact Nat.mod_lt _ hc.p_prime.pos
  unfold squareRoot
  omega

/-- What the machine computes is a square root wherever there is one. -/
theorem Legal.squareRoot_sq {alpha : Int} (h : y * y % c.p = alpha % c.p) :
    c.squareRoot (alpha % c.p) * c.squareRoot (alpha % c.p) % c.p = alpha % c.p := by
  rw [hc.mul_self_emod_eq_iff] at h ⊢
  rw [squareRoot, powMod_emod hc.p_pos, hc.intCast_emod, Int.cast_pow, hc.intCast_emod, ← h, hc.sq_pow_quarter_sq]

/-- The roots in [0, p) of a square are one of them and its negative. -/
theorem Legal.isRoot_iff (hr : 0 ≤ root ∧ root < c.p) (hsq : root * root % c.p = Curve.rhs c x % c.p) :
    IsRoot c x parity y ↔ (y = root ∨ root ≠ 0 ∧ y = c.p - root) ∧ y % 2 = parity := by
  have : Fact c.p.toNat.Prime := ⟨hc.p_prime⟩
  have hneg : (c.p - root) * (c.p - root) % c.p = root * root % c.p := by
    rw [show (c.p - root) * (c.p - root) = root * root + (c.p - 2 * root) * c.p by ring, Int.add_mul_emod_self_right]
  constructor
  · rintro ⟨h0, hlt, hy, hpar⟩
    refine ⟨?_, hpar⟩
    rw [← Curve.rhs, ← hsq, hc.mul_self_emod_eq_iff, Int.cast_mul, ← sq, sq_eq_sq_iff_eq_or_eq_neg] at hy
    obtain hy | hy := hy
    · exact .inl (hc.eq_of_intCast_eq ⟨h0, hlt⟩ hr hy)
    · by_cases hz : root = 0
      · exact .inl (hc.eq_of_intCast_eq ⟨h0, hlt⟩ hr (by simp [hy, hz]))
      · refine .inr ⟨hz, hc.eq_of_intCast_eq ⟨h0, hlt⟩ (by omega) ?_⟩
        have hp : ((c.p : Int) : ZMod c.p.toNat) = 0 := (hc.emod_eq_zero_iff c.p).1 (Int.emod_self)
        rw [hy, Int.cast_sub, hp, zero_sub]
  · rintro ⟨rfl | ⟨hz, rfl⟩, hpar⟩
    · exact ⟨hr.1, hr.2, hsq, hpar⟩
    · exact ⟨by omega, by omega, hneg.trans hsq, hpar⟩

/-- The machine finds the root of R124 exactly where there is one; p is odd, so parity tells the two roots apart. -/
theorem Legal.rootOfParity?_eq_some_iff :
    rootOfParity? c (Curve.rhs c x % c.p) parity = some y ↔ IsRoot c x parity y := by
  have hp := hc.p_mod_four
  have hrange := hc.squareRoot_range (Curve.rhs c x % c.p)
  have hsquare (h : IsRoot c x parity y) := hc.squareRoot_sq h.2.2.1
  rw [rootOfParity?_eq]
  by_cases hsq : c.squareRoot (Curve.rhs c x % c.p) * c.squareRoot (Curve.rhs c x % c.p) % c.p = Curve.rhs c x % c.p
  · rw [if_pos hsq, hc.isRoot_iff hrange hsq]
    split_ifs with hpar hneg
    · exact Option.some_inj.trans (by omega)
    · exact Option.some_inj.trans (by omega)
    · exact ⟨fun h => absurd h (by simp), by omega⟩
  · rw [if_neg hsq]
    exact ⟨fun h => absurd h (by simp), fun h => absurd (hsquare h) hsq⟩

end Root

section Candidate
variable {c : Config.Curve} (hc : c.Legal) {r s v y : Int}

theorem inScalarRange_and_eq_true (hr : InRange c r) (hs : InRange c s) :
    (inScalarRange c r && inScalarRange c s) = true :=
  Bool.and_eq_true_iff.2 ⟨inScalarRange_iff.2 hr, inScalarRange_iff.2 hs⟩

theorem candidatePoint_out_of_range (h : ¬ (InRange c r ∧ InRange c s)) :
    candidatePoint c r s v = .error .invalidSignatureRange := by
  have hfalse : (inScalarRange c r && inScalarRange c s) = false :=
    Bool.eq_false_iff.2 fun ht => h ((Bool.and_eq_true_iff.1 ht).imp inScalarRange_iff.1 inScalarRange_iff.1)
  rw [candidatePoint, hfalse]
  rfl

include hc

theorem Legal.candidatePoint_root (hr : InRange c r) (hs : InRange c s) (h0 : 0 ≤ v) (h3 : v ≤ 3)
    (hx : r + v / 2 * c.n < c.p) (hy : IsRoot c (r + v / 2 * c.n) (v % 2) y) :
    candidatePoint c r s v = .ok (.affine (r + v / 2 * c.n) y) := by
  simp [candidatePoint, inScalarRange_and_eq_true hr hs, h0, h3, hx, hc.rootOfParity?_eq_some_iff.2 hy]

theorem Legal.candidatePoint_no_root (hr : InRange c r) (hs : InRange c s)
    (h : ¬ (0 ≤ v ∧ v ≤ 3 ∧ r + v / 2 * c.n < c.p ∧ ∃ y, IsRoot c (r + v / 2 * c.n) (v % 2) y)) :
    candidatePoint c r s v = .error .invalidRecoveryId := by
  simp only [candidatePoint, inScalarRange_and_eq_true hr hs, require_true, Result.bind_ok]
  by_cases hv : 0 ≤ v ∧ v ≤ 3
  · rw [decide_eq_true hv, require_true, Result.bind_ok]
    by_cases hx : r + v / 2 * c.n < c.p
    · rw [decide_eq_true hx, require_true, Result.bind_ok]
      cases hroot : rootOfParity? c (Curve.rhs c (r + v / 2 * c.n) % c.p) (v % 2) with
      | none => rfl
      | some y => exact absurd ⟨hv.1, hv.2, hx, y, hc.rootOfParity?_eq_some_iff.1 hroot⟩ h
    · rw [decide_eq_false hx]
      rfl
  · rw [decide_eq_false hv]
    rfl

end Candidate

end Sys2Proof.Config.Curve

namespace Sys2Proof.Machine

/-- RECOVER's sources, its candidate point, and the key where it verifies (R124). -/
theorem exec_recover_eq {s : State} {a : PReg} {b b₁ b₂ c : BReg} (h₁ : b₁.val = b.val + 1)
    (h₂ : b₂.val = b.val + 2) :
    exec (.recover a b c) s = finish s (s.readB2 b b₁ >>= fun rs => s.readB2 b₂ c >>= fun vz =>
      candidatePoint s.build.curve rs.1 rs.2 vz.1 >>= fun cand =>
        require (verifyPred s.build.curve (recoveredKey s.build.curve rs.1 rs.2 (vz.2 % s.build.curve.n) cand)
          rs.1 rs.2 (vz.2 % s.build.curve.n)) .recoveryMismatch >>= fun _ =>
        .ok (wrotePoint a (recoveredKey s.build.curve rs.1 rs.2 (vz.2 % s.build.curve.n) cand) s)) := by
  have hfits : groupFits b 3 = true := decide_eq_true (by omega)
  show execRecover a b c s = _
  simp only [execRecover, hfits, groupReg_eq (b := b) (j := 0) rfl, groupReg_eq h₁, groupReg_eq h₂, require_true,
    Result.bind_ok, readB_readB_eq_readB2 s b b₁, readB_readB_eq_readB2 s b₂ c]
  rfl

/-- Settles O34: the checks in R124's order, and the key verified. -/
theorem recoverFollowsItsRule : Obligations.RecoverFollowsItsRule := by
  unfold Obligations.RecoverFollowsItsRule
  rintro a b b₁ b₂ c s r sg v z n hL h₁ h₂ rfl rfl rfl rfl rfl
  have hc := hL.curve_legal
  rw [exec_recover_eq h₁ h₂]
  refine ⟨fun hinvalid => ?_, fun hv hz => ?_⟩
  · by_cases hv : Valid2 s b b₁
    · rw [finish_readB2_valid2 hv, finish_readB2_not_valid2 fun hz => hinvalid ⟨hv, hz⟩]
    · rw [finish_readB2_not_valid2 hv]
  · rw [finish_readB2_valid2 hv, finish_readB2_valid2 hz]
    refine ⟨fun h => finish_bind_error (Config.Curve.candidatePoint_out_of_range h) _, fun hr hs =>
      ⟨fun h => finish_bind_error (hc.candidatePoint_no_root hr hs h) _, fun h0 h3 hx y hy =>
        ⟨modInv s.b[b] s.build.curve.n, _, hc.mul_modInv_n hr, rfl, fun h => ?_, fun h => ?_⟩⟩⟩
    · rw [finish_bind_ok (hc.candidatePoint_root hr hs h0 h3 hx hy)]
      exact finish_require_fails (Bool.eq_false_iff.2 fun ht => h (hc.verifyPred_iff_accepts.1 ht)) _
    · rw [finish_bind_ok (hc.candidatePoint_root hr hs h0 h3 hx hy)]
      exact finish_require_holds (hc.verifyPred_iff_accepts.2 h) _

end Sys2Proof.Machine
end

section
/-! SUPPORT. O35, O36, 45_ecdsa.md R122 to R124: the multiples of G are a cyclic group of order n, so that an equation
between points is one between scalars mod n, and what SIGN writes meets one such equation. -/

namespace Sys2Proof.Config.Curve

open Sys2Proof.Machine

/-- k·G for an integer scalar k, taken mod n (44_ec_point.md R110). -/
def multiple (c : Config.Curve) (k : Int) : Point := ecMul c (k % c.n).toNat (basePoint c)

theorem multiple_of_inRange {c : Config.Curve} {k : Int} (hk : InRange c k) :
    c.multiple k = ecMul c k.toNat (basePoint c) := by
  obtain ⟨h1, hlt⟩ := hk
  rw [multiple, Int.emod_eq_of_lt (by omega) (by omega)]

section Multiples
variable {c : Config.Curve} (hc : c.Legal) {j k m : Int} {x y : Int}
include hc

theorem Legal.multiple_member (k : Int) : (c.multiple k).member c = true := hc.ecMul_member hc.basePoint_member

theorem Legal.natCast_emod_n_toNat (k : Int) : ((k % c.n).toNat : Int) = k % c.n :=
  Int.toNat_of_nonneg (hc.emod_n_range k).1

variable (hns : c.Nonsingular)
include hns

section Field
variable [Fact c.p.toNat.Prime]

theorem Legal.zsmul_basePoint_eq_iff :
    j • c.groupPoint (basePoint c) = k • c.groupPoint (basePoint c) ↔ (j : ZMod c.n.toNat) = k := by
  rw [zsmul_eq_zsmul_iff_modEq, hc.addOrderOf_basePoint hns, ← ZMod.intCast_eq_intCast_iff]

theorem Legal.groupPoint_multiple (k : Int) : c.groupPoint (c.multiple k) = k • c.groupPoint (basePoint c) := by
  rw [multiple, hc.groupPoint_ecMul hns hc.basePoint_member, ← natCast_zsmul, hc.natCast_emod_n_toNat,
    hc.zsmul_basePoint_eq_iff hns, hc.intCast_emod_n]

/-- A scalar mod n times a multiple of G. -/
theorem Legal.groupPoint_ecMul_multiple (j k : Int) :
    c.groupPoint (ecMul c (j % c.n).toNat (c.multiple k)) = (j * k) • c.groupPoint (basePoint c) := by
  rw [hc.groupPoint_ecMul hns (hc.multiple_member k), hc.groupPoint_multiple hns, ← natCast_zsmul,
    hc.natCast_emod_n_toNat, smul_smul, hc.zsmul_basePoint_eq_iff hns, Int.cast_mul, Int.cast_mul, hc.intCast_emod_n]

end Field

theorem Legal.multiple_eq_iff : c.multiple j = c.multiple k ↔ (j : ZMod c.n.toNat) = k := by
  have : Fact c.p.toNat.Prime := ⟨hc.p_prime⟩
  rw [← hc.zsmul_basePoint_eq_iff hns, ← hc.groupPoint_multiple hns, ← hc.groupPoint_multiple hns]
  exact ⟨congrArg _, hc.groupPoint_injective hns (hc.multiple_member j) (hc.multiple_member k)⟩

theorem Legal.multiple_ne_inf (hk : InRange c k) : c.multiple k ≠ .inf := fun h =>
  hc.intCast_ne_zero hk (by simpa using (hc.multiple_eq_iff hns (j := k) (k := 0)).1 (h.trans (by simp [multiple])))

/-- u₁·G + u₂·(k·G) = m·G where u₁ + u₂·k ≡ m (mod n). -/
theorem Legal.ecAdd_multiples {u₁ u₂ : Int} (h : (u₁ : ZMod c.n.toNat) + u₂ * k = m) :
    ecAdd c (ecMul c (u₁ % c.n).toNat (basePoint c)) (ecMul c (u₂ % c.n).toNat (c.multiple k)) = c.multiple m := by
  have : Fact c.p.toNat.Prime := ⟨hc.p_prime⟩
  have h₁ := hc.multiple_member u₁
  have h₂ : (ecMul c (u₂ % c.n).toNat (c.multiple k)).member c = true := hc.ecMul_member (hc.multiple_member k)
  rw [← multiple]
  refine hc.groupPoint_injective hns (hc.ecAdd_member h₁ h₂) (hc.multiple_member m) ?_
  rw [hc.groupPoint_ecAdd hns h₁ h₂, hc.groupPoint_multiple hns, hc.groupPoint_ecMul_multiple hns,
    hc.groupPoint_multiple hns, ← add_zsmul, hc.zsmul_basePoint_eq_iff hns]
  push_cast
  exact h

/-- −k·G is the reflection of k·G. -/
theorem Legal.multiple_neg (h : c.multiple k = .affine x y) : c.multiple (-k) = .affine x (-y % c.p) := by
  have : Fact c.p.toNat.Prime := ⟨hc.p_prime⟩
  have hk := hc.multiple_member k
  rw [h] at hk
  have hneg : (Point.affine x (-y % c.p)).member c = true := by
    obtain ⟨hx, -, heq⟩ := hc.onCurve_iff.1 hk
    refine hc.onCurve_iff.2 ⟨hx, ⟨Int.emod_nonneg _ hc.p_pos.ne', Int.emod_lt_of_pos _ hc.p_pos⟩, ?_⟩
    rw [hc.intCast_emod, Int.cast_neg, neg_sq, heq]
  have hsum : c.groupPoint (.affine x y) + c.groupPoint (.affine x (-y % c.p)) = 0 := by
    rw [← hc.groupPoint_ecAdd hns hk hneg, ecAdd_of_inverse (by simp), groupPoint_inf]
  refine hc.groupPoint_injective hns (hc.multiple_member _) hneg ?_
  rw [hc.groupPoint_multiple hns, neg_zsmul, ← hc.groupPoint_multiple hns, h, neg_eq_of_add_eq_zero_right hsum]

/-- Where n is odd no multiple of G but INF is its own inverse. -/
theorem Legal.y_ne_zero_of_multiple (hn : 2 < c.n) (hk : InRange c k) (h : c.multiple k = .affine x y) : y ≠ 0 := by
  have : Fact c.n.toNat.Prime := ⟨hc.n_prime⟩
  rintro rfl
  have hneg := hc.multiple_neg hns h
  rw [neg_zero, Int.zero_emod, ← h, hc.multiple_eq_iff hns, Int.cast_neg, neg_eq_iff_add_eq_zero, ← two_mul] at hneg
  have h2 := hc.intCast_ne_zero (x := 2) ⟨by decide, by omega⟩
  exact mul_ne_zero h2 (hc.intCast_ne_zero hk) (by exact_mod_cast hneg)

end Multiples

/-! ## Signatures -/

/-- (r, sg, v) signs z under the key d with the nonce e, or −e where s was negated: e·G = (x, y), and
sg·e ≡ z + r·d (mod n) (R122). -/
structure SignedBy (c : Config.Curve) (d z r sg v e x y : Int) : Prop where
  r_range  : InRange c r
  sg_range : InRange c sg
  point    : c.multiple e = .affine x y
  r_eq     : x % c.n = r
  sg_eq    : (sg : ZMod c.n.toNat) * e = z + r * d
  v_eq     : v = y % 2 + (if c.n ≤ x then 2 else 0)

theorem neg_emod_p {c : Config.Curve} {y : Int} (h0 : y ≠ 0) (hy : 0 ≤ y ∧ y < c.p) : -y % c.p = c.p - y := by
  rw [← Int.add_emod_right, neg_add_eq_sub, Int.emod_eq_of_lt (by omega) (by omega)]

section Signatures
variable {c : Config.Curve} (hc : c.Legal) (hns : c.Nonsingular) {d z r sg v k ki e x y : Int}
include hc

/-- What one attempt computes (R122). -/
theorem Legal.signedBy_of_nonce (hk : InRange c k) (hR : ecMul c k.toNat (basePoint c) = .affine x y)
    (hr : x % c.n ≠ 0) (hki : k * ki % c.n = 1) (hsg : sg = ki * (z + x % c.n * d) % c.n) (hs : sg ≠ 0) :
    c.SignedBy d z (x % c.n) sg (y % 2 + (if c.n ≤ x then 2 else 0)) k x y where
  r_range  := hc.inRange_emod_n hr
  sg_range := hsg ▸ hc.inRange_emod_n (hsg ▸ hs)
  point    := (multiple_of_inRange hk).trans hR
  r_eq     := rfl
  sg_eq    := by
    rw [hc.emod_n_eq_one_iff] at hki
    rw [hsg, hc.intCast_emod_n]
    push_cast at hki ⊢
    linear_combination ((z : ZMod c.n.toNat) + (x % c.n : Int) * d) * hki
  v_eq     := rfl

/-- Where p ≤ 2n, v tells the nonce's point from r (R124). -/
theorem SignedBy.candidate (h : c.SignedBy d z r sg v e x y) (hp : c.p ≤ 2 * c.n) :
    0 ≤ v ∧ v ≤ 3 ∧ r + v / 2 * c.n = x ∧ x < c.p ∧ IsRoot c x (v % 2) y := by
  have hmem := hc.multiple_member e
  rw [h.point] at hmem
  obtain ⟨hx0, hx, hy0, hy, heq⟩ := onCurve_iff_isOnCurve.1 hmem
  have hroot : IsRoot c x (y % 2) y := ⟨hy0, hy, Int.emod_eq_emod_iff_emod_sub_eq_zero.2 heq, rfl⟩
  have hv := h.v_eq
  have hr := h.r_eq
  by_cases hn : c.n ≤ x
  · rw [if_pos hn] at hv
    have hhalf : v / 2 = 1 := by omega
    have hparity : v % 2 = y % 2 := by omega
    rw [← Int.sub_emod_right, Int.emod_eq_of_lt (by omega) (by omega)] at hr
    exact ⟨by omega, by omega, by rw [hhalf]; omega, hx, hparity ▸ hroot⟩
  · rw [if_neg hn] at hv
    have hhalf : v / 2 = 0 := by omega
    have hparity : v % 2 = y % 2 := by omega
    rw [Int.emod_eq_of_lt hx0 (by omega)] at hr
    exact ⟨by omega, by omega, by rw [hhalf]; omega, hx, hparity ▸ hroot⟩

include hns

/-- Negating s is signing with the nonce −k, whose point is the reflected one (R122). -/
theorem SignedBy.negate (h : c.SignedBy d z r sg v k x y) (hk : InRange c k) (hhigh : c.n < 2 * sg) :
    c.SignedBy d z r (c.n - sg) (1 - y % 2 + (if c.n ≤ x then 2 else 0)) (-k) x (-y % c.p) where
  r_range  := h.r_range
  sg_range := by
    obtain ⟨h1, hlt⟩ := h.sg_range
    exact ⟨by omega, by omega⟩
  point    := hc.multiple_neg hns h.point
  r_eq     := h.r_eq
  sg_eq    := by
    have hn : ((c.n : Int) : ZMod c.n.toNat) = 0 := by simpa using hc.emod_n_eq_iff (x := c.n) (y := 0)
    rw [← h.sg_eq, Int.cast_sub, hn]
    push_cast
    ring
  v_eq     := by
    obtain ⟨-, hsg⟩ := h.sg_range
    have hmem := hc.multiple_member k
    rw [h.point] at hmem
    obtain ⟨-, hy, -⟩ := hc.onCurve_iff.1 hmem
    have hp := hc.p_mod_four
    rw [neg_emod_p (hc.y_ne_zero_of_multiple hns (by omega) hk h.point) hy]
    omega

/-- u₁·G + u₂·(d·G) with u₁ = z/s and u₂ = r/s is the nonce's point (R123). -/
theorem SignedBy.accepts (h : c.SignedBy d z r sg v e x y) (hd : InRange c d) : Accepts c (c.multiple d) r sg z := by
  have hinv := hc.mul_modInv_n h.sg_range
  refine ⟨h.r_range, h.sg_range, hc.multiple_ne_inf hns hd, modInv sg c.n, x, y, hinv, ?_, h.r_eq⟩
  rw [hc.emod_n_eq_one_iff] at hinv
  rw [← h.point]
  refine hc.ecAdd_multiples hns ?_
  have hsg := h.sg_eq
  push_cast at hinv ⊢
  linear_combination (e : ZMod c.n.toNat) * hinv - (modInv sg c.n : ZMod c.n.toNat) * hsg

/-- u₁·G + u₂·R with u₁ = −z/r and u₂ = s/r is d·G (R124). -/
theorem SignedBy.recovers (h : c.SignedBy d z r sg v e x y) {ri : Int} (hri : r * ri % c.n = 1) :
    ecAdd c (ecMul c (-(z * ri) % c.n).toNat (basePoint c)) (ecMul c (sg * ri % c.n).toNat (.affine x y)) =
      c.multiple d := by
  rw [hc.emod_n_eq_one_iff] at hri
  rw [← h.point]
  refine hc.ecAdd_multiples hns ?_
  have hsg := h.sg_eq
  push_cast at hri ⊢
  linear_combination (ri : ZMod c.n.toNat) * hsg + (d : ZMod c.n.toNat) * hri

end Signatures

end Sys2Proof.Config.Curve

namespace Sys2Proof.Machine

/-! ## A SIGN that completes -/

section Completes
variable {s t u : State} {a b c : BReg} {lows : Bool} {r sg v : Int}

/-- What completes does not end with PC kept (R121, 60_exceptions.md R134). -/
theorem pc_ne_of_completes {i : Instr} (h : exec i s = .next t) (hpc : t.pc = s.pc + 1) (hu : exec i s = .next u) :
    u.pc ≠ s.pc := by
  obtain rfl := Host.Outcome.next.inj (h.symm.trans hu)
  simp [hpc]

theorem signOperands_past_B15 (ha : 13 < a.val) : signOperands a b c s = .error .illegalInstruction := by
  rw [signOperands, (groupFits_eq_false (by decide)).2 ha]
  rfl

/-- A SIGN that completes writes a signature by its key (R122). -/
theorem signedBy_of_completes (hL : s.build.Legal) (hns : s.build.curve.Nonsingular)
    (h : exec (.sign a b c lows) s = .next t) (hpc : t.pc = s.pc + 1) :
    a.val ≤ 13 ∧ Valid2 s b c ∧ InRange s.build.curve s.b[b] ∧ ∃ r sg v e x y,
      t = wroteSignature a r sg v (consumed s) ∧
      s.build.curve.SignedBy s.b[b] (s.b[c] % s.build.curve.n) r sg v e x y := by
  have hc := hL.curve_legal
  have hmoves {u : State} (hu : exec (.sign a b c lows) s = .next u) : u.pc ≠ s.pc := pc_ne_of_completes h hpc hu
  have ha : a.val ≤ 13 := by_contra fun ha => hmoves (exec_sign_error (signOperands_past_B15 (not_le.1 ha))) rfl
  obtain ⟨hinvalid, hkey, hwait, hsign⟩ := signFollowsItsRule a b c lows s hL ha
  have hv : Valid2 s b c := by_contra fun hv => hmoves (hinvalid hv) rfl
  have hd : InRange s.build.curve s.b[b] := by_contra fun hd => hmoves (hkey hv hd) rfl
  have hn : s.nonceValid = true := by_contra fun hn => hmoves (hwait hv hd (Bool.eq_false_iff.2 hn)) rfl
  obtain ⟨hrange, hattempt⟩ := hsign hv hd hn _ _ rfl rfl
  have hk : InRange s.build.curve (nonceSum s) := by_contra fun hk => hmoves (hrange hk) rfl
  refine ⟨ha, hv, hd, ?_⟩
  cases hR : ecMul s.build.curve (nonceSum s) (basePoint s.build.curve) with
  | inf => exact absurd hR (by simpa [Config.Curve.multiple_of_inRange hk] using hc.multiple_ne_inf hns hk)
  | affine x y =>
    obtain ⟨hrzero, hrest⟩ := hattempt hk x y hR
    have hr : x % s.build.curve.n ≠ 0 := fun hr => hmoves (hrzero hr) rfl
    obtain ⟨ki, sg, v, hki, hsg, rfl, hszero, hkept, hnegated⟩ := hrest hr
    have hs : sg ≠ 0 := fun hs => hmoves (hszero hs) rfl
    have hsigned := hc.signedBy_of_nonce hk hR hr hki hsg hs
    by_cases hlow : lows = false ∨ 2 * sg ≤ s.build.curve.n
    · exact ⟨_, _, _, _, _, _, (Host.Outcome.next.inj ((hkept hs hlow).symm.trans h)).symm, hsigned⟩
    · obtain ⟨hl, hhigh⟩ := not_or.1 hlow
      have hhigh := not_le.1 hhigh
      exact ⟨_, _, _, _, _, _,
        (Host.Outcome.next.inj ((hnegated hs (by simpa using hl) hhigh).symm.trans h)).symm,
        hsigned.negate hc hns hk hhigh⟩

/-! ## The group SIGN writes -/

theorem wroteSignature_group {a₁ a₂ : BReg} (h₁ : a₁.val = a.val + 1) (h₂ : a₂.val = a.val + 2)
    (ht : t = wroteSignature a r sg v s) :
    Valid2 t a a₁ ∧ t.vb[a₂] = true ∧ t.b[a] = r ∧ t.b[a₁] = sg ∧ t.b[a₂] = v := by
  subst ht
  simp [wroteSignature, Valid2, h₁, h₂]

theorem wroteSignature_outside (hc : c.val < a.val ∨ a.val + 2 < c.val) (ht : t = wroteSignature a r sg v s) :
    t.b[c] = s.b[c] ∧ t.vb[c] = s.vb[c] := by
  subst ht
  have h0 : a.val ≠ c.val := by omega
  have h1 : a.val + 1 ≠ c.val := by omega
  have h2 : a.val + 2 ≠ c.val := by omega
  simp [wroteSignature, h0, h1, h2]

/-- VERIFY and RECOVER read the signature from the group, and z where it was (30_encoding.md R73). -/
theorem wroteSignature_reads (ha : a.val ≤ 13) (hz : s.vb[c] = true) (hout : c.val < a.val ∨ a.val + 2 < c.val)
    (ht : t = wroteSignature a r sg v s) :
    ∃ a₁ a₂ : BReg, a₁.val = a.val + 1 ∧ a₂.val = a.val + 2 ∧ Valid2 t a a₁ ∧ Valid2 t a₂ c ∧
      t.b[a] = r ∧ t.b[a₁] = sg ∧ t.b[a₂] = v ∧ t.b[c] = s.b[c] := by
  obtain ⟨hv, hv₂, hr, hs, hid⟩ :=
    wroteSignature_group (a₁ := ⟨a.val + 1, by omega⟩) (a₂ := ⟨a.val + 2, by omega⟩) rfl rfl ht
  obtain ⟨hc, hvc⟩ := wroteSignature_outside hout ht
  exact ⟨_, _, rfl, rfl, hv, ⟨hv₂, hvc.trans hz⟩, hr, hs, hid, hc⟩

end Completes

/-- Settles O35: the group holds a signature by d, which verifies under d·G. -/
theorem signedMessagesVerify : Obligations.SignedMessagesVerify := by
  unfold Obligations.SignedMessagesVerify
  intro a b c lows q s t hL hns h hpc hout hq hQ
  have hc := hL.curve_legal
  obtain ⟨ha, ⟨-, hz⟩, hd, r, sg, v, e, x, y, ht, hsigned⟩ := signedBy_of_completes hL hns h hpc
  obtain ⟨a₁, a₂, h₁, -, hv, ⟨-, hvz⟩, hr, hs, -, hbz⟩ :=
    wroteSignature_reads (s := consumed s) ha hz hout ht
  have haccepts := hsigned.accepts hc hns hd
  rw [Config.Curve.multiple_of_inRange hd, ← hQ] at haccepts
  obtain ⟨hp, hvp, hbuild⟩ : t.p = s.p ∧ t.vp = s.vp ∧ t.build = s.build := by
    rw [ht]
    exact ⟨rfl, rfl, rfl⟩
  refine ((verifyFollowsItsRule q a a₁ c t (hbuild ▸ hL) h₁).2 (hvp ▸ hq) hv hvz).1 ?_
  rw [hr, hs, hbz, hbuild, hp]
  exact haccepts

/-- Settles O36: the group holds a signature by d, from which the nonce's point and d·G are found again. -/
theorem recoverReturnsTheSigner : Obligations.RecoverReturnsTheSigner := by
  unfold Obligations.RecoverReturnsTheSigner
  intro a b c lows q s t hL hns hpn h hpc hout
  have hc := hL.curve_legal
  obtain ⟨ha, ⟨-, hz⟩, hd, r, sg, v, e, x, y, ht, hsigned⟩ := signedBy_of_completes hL hns h hpc
  obtain ⟨a₁, a₂, h₁, h₂, hv, hvz, hr, hs, hvid, hbz⟩ :=
    wroteSignature_reads (s := consumed s) ha hz hout ht
  have hbuild : t.build = s.build := by
    rw [ht]
    rfl
  obtain ⟨h0, h3, hx, hxp, hroot⟩ := hsigned.candidate hc hpn
  obtain ⟨-, hrecover⟩ := recoverFollowsItsRule q a a₁ a₂ c t r sg v (s.b[c] % s.build.curve.n) s.build.curve.n
    (hbuild ▸ hL) h₁ h₂ hr.symm hs.symm hvid.symm (by rw [hbuild]) (by rw [hbz]; rfl)
  obtain ⟨-, hfound⟩ := (hrecover hv hvz).2 (hbuild ▸ hsigned.r_range) (hbuild ▸ hsigned.sg_range)
  rw [hbuild, hx] at hfound
  obtain ⟨ri, key, hri, hkey, -, hwrites⟩ := hfound h0 h3 hxp y hroot
  rw [hsigned.recovers hc hns hri] at hkey
  rw [← Config.Curve.multiple_of_inRange hd, ← hkey]
  exact hwrites (hkey ▸ hsigned.accepts hc hns hd)

end Sys2Proof.Machine
end

section
/-! SUPPORT. O5, O7, O8, 46_sequencer.md R125 to R131: the example words, the control transfers, and the moves, whose
immediates and curve constants fit every register of a legal build. -/

namespace Sys2Proof

/-- Settles O5: each word is the word of its instruction, which is well-formed, and decoding inverts the encoder. -/
theorem exampleWordsDecode : Obligations.ExampleWordsDecode := by
  unfold Obligations.ExampleWordsDecode
  simp only [decode_eq_ok_iff_encode]
  decide

end Sys2Proof

namespace Sys2Proof.Machine

section Moves
variable {s : State} {a : BReg}

/-! ## BR (R128) -/

theorem exec_br_taken {cond : Cond} (h : ConditionHolds s.flags cond.code.toNat) (target : BitVec 16) :
    exec (.br cond target) s = .next (s.jump target) :=
  congrArg Host.Outcome.next (if_pos (conditionHolds_iff.1 h))

theorem exec_br_not_taken {cond : Cond} (h : ¬ ConditionHolds s.flags cond.code.toNat) (target : BitVec 16) :
    exec (.br cond target) s = .next s.nextPc :=
  congrArg Host.Outcome.next (if_neg (mt conditionHolds_iff.2 h))

/-! ## LDI (R130) -/

/-- sext_16 is the two's complement value (00_scope.md R16). -/
theorem sextImm_eq_toInt (imm : BitVec 16) : sextImm imm = imm.toInt := by
  rw [sextImm, BitVec.toInt_eq_toNat_cond]
  split <;> split <;> omega

/-- A 16-bit immediate fits a register, which has at least 256 bits (00_scope.md R9). -/
theorem natAbs_sextImm_lt (hL : s.build.Legal) (imm : BitVec 16) :
    (sextImm imm).natAbs < 2 ^ s.build.maxBits := by
  have himm := imm.isLt
  obtain ⟨hbits, -⟩ := hL.maxBits_range
  calc (sextImm imm).natAbs < 2 ^ 16 := by unfold sextImm; split <;> omega
    _ ≤ 2 ^ s.build.maxBits := Nat.pow_le_pow_right two_pos (by omega)

theorem exec_ldi (hL : s.build.Legal) (imm : BitVec 16) :
    exec (.ldi a imm) s = .next (wrote a imm.toInt s) := by
  rw [← sextImm_eq_toInt]
  exact finish_result_ok (natAbs_sextImm_lt hL imm)

/-! ## LDC (R131) -/

/-- No constant of a legal curve is negative or above p (00_scope.md R13). -/
theorem curveConst_range {c : Config.Curve} (hc : c.Legal) (sel : CurveConst) :
    0 ≤ curveConst c sel ∧ curveConst c sel ≤ c.p := by
  obtain ⟨hgx, hgxp, hgy, hgyp, -⟩ := onCurve_iff_isOnCurve.1 hc.base_on
  cases sel with
  | p => exact ⟨hc.p_pos.le, le_rfl⟩
  | a => exact ⟨hc.a_range.1, hc.a_range.2.le⟩
  | b => exact ⟨hc.b_range.1, hc.b_range.2.le⟩
  | n => exact ⟨hc.n_pos.le, hc.n_lt_p.le⟩
  | gx => exact ⟨hgx, hgxp.le⟩
  | gy => exact ⟨hgy, hgyp.le⟩

theorem natAbs_curveConst_lt (hL : s.build.Legal) (sel : CurveConst) :
    (curveConst s.build.curve sel).natAbs < 2 ^ s.build.maxBits := by
  obtain ⟨h0, hp⟩ := curveConst_range hL.curve_legal sel
  calc (curveConst s.build.curve sel).natAbs ≤ s.build.curve.p.toNat := by omega
    _ < 2 ^ bitlen s.build.curve.p.toNat := lt_two_pow_bitlen _
    _ ≤ 2 ^ s.build.maxBits := Nat.pow_le_pow_right two_pos hL.p_fits

theorem exec_ldc (hL : s.build.Legal) (sel : CurveConst) :
    exec (.ldc a sel) s = .next (wrote a (curveConst s.build.curve sel) s) :=
  finish_result_ok (natAbs_curveConst_lt hL sel)

end Moves

/-- Settles O7: BR's two cases by its flag test, the others as they stand. -/
theorem controlTransfer : Obligations.ControlTransfer := by
  unfold Obligations.ControlTransfer
  intro s
  refine ⟨rfl, rfl, fun target => ⟨rfl, fun cond => ⟨fun h => ?_, fun h => ?_⟩⟩⟩
  · exact exec_br_taken h target
  · exact exec_br_not_taken h target

/-- Settles O8: a valid register holds a value within capacity, and so are every immediate and every constant. -/
theorem movesAndConstants : Obligations.MovesAndConstants := by
  unfold Obligations.MovesAndConstants
  intro a b s hL hfit
  refine ⟨fun hv => finish_readB_invalid hv _, fun hv => ?_, exec_ldi hL, exec_ldc hL .p, exec_ldc hL .a,
    exec_ldc hL .b, exec_ldc hL .n, exec_ldc hL .gx, exec_ldc hL .gy⟩
  exact (finish_readB_valid hv _).trans (finish_result_ok (hfit b hv))

end Sys2Proof.Machine
end

section
/-! SUPPORT. O45, O49, O50, 70_reset_and_hazards.md R151, R152: the reset values, and the dead port while reset is
asserted. -/

namespace Sys2Proof.Machine

section Reset
variable {s : State}

/-- While reset is asserted a host read gives 0 (R151). -/
theorem hostReadValue_of_resetLine (offset : Nat) (h : s.resetLine = true) : s.hostReadValue offset = 0 := by
  rw [State.hostReadValue, h]
  rfl

/-- While reset is asserted the engine changes nothing (log 11). -/
theorem engineStep_of_resetLine (h : s.resetLine = true) : engineStep s = .next s := by
  rw [engineStep, h]
  rfl

theorem step_facing_assertReset (s : State) : step (facing .assertReset s) = .next s.assertReset := rfl

end Reset

/-- Settles O45: the reset state is the default build's after an assertion of reset and its release. -/
theorem resetMeetsTheInvariant : Obligations.ResetMeetsTheInvariant := by
  unfold Obligations.ResetMeetsTheInvariant
  exact {
    build := defaultBuild_legal
    registers := (assertReset_registersFit (s := State.reset)).congr rfl rfl rfl
    points := (assertReset_pointsOnCurve (s := State.reset)).congr rfl rfl rfl
    memories := rfl
    busy := fun hb => absurd hb Bool.false_ne_true
    code := .inl rfl
    held := fun held hr => (by cases hr)
    reset := .of_released rfl }

/-- Settles O49, field by field, each register file being a vector of one value. -/
theorem resetState : Obligations.ResetState := by
  unfold Obligations.ResetState
  refine ⟨fun r => Vector.getElem_replicate r.isLt, fun r => Vector.getElem_replicate r.isLt, rfl, rfl, rfl, rfl, rfl,
    rfl, rfl, rfl, rfl, rfl, rfl, rfl, rfl, fun i => Vector.getElem_replicate i.isLt, rfl, rfl, rfl, rfl, ?_,
    rfl, rfl, rfl⟩
  decide

/-- Settles O50: `assertReset` gives each field its reset value, and every turn but the release looks at the line. -/
theorem resetFromAnyState : Obligations.ResetFromAnyState := by
  unfold Obligations.ResetFromAnyState
  intro s t h
  rw [step_facing_assertReset] at h
  obtain rfl := Host.Outcome.next.inj h
  refine ⟨rfl, fun r => Vector.getElem_replicate r.isLt, fun r => Vector.getElem_replicate r.isLt, rfl, rfl, rfl, rfl,
    rfl, rfl, rfl, rfl, rfl, rfl, rfl, fun i => Vector.getElem_replicate i.isLt, rfl, rfl, rfl, rfl, rfl, rfl,
    engineStep_of_resetLine (s := s.assertReset) rfl, fun offset ho => ⟨fun u => ?_, ?_⟩⟩
  · rw [step_facingWrite ho, hostWrite_of_resetLine _ _ rfl]
  · rw [step_facingRead ho, hostReadValue_of_resetLine _ rfl]

end Sys2Proof.Machine
end

section
/-! SUPPORT. O37, O56, 20_memory.md R52, 60_exceptions.md R136, R149: every instruction and every turn answers, and the
interrupt output. -/

namespace Sys2Proof.Machine

section Answers
variable {s : State}

/-! ## Instructions -/

theorem memReadThen_completes (a n : Nat) (s : State) (rest : List Byte → State → Result State) :
    ∃ t, memReadThen a n s rest = .next t := by
  rw [memReadThen_eq]
  split
  · exact finish_completes _
  · exact ⟨_, rfl⟩

theorem loadString_completes (r : Radix) (a : BReg) (addr : BitVec 12) (len : BitVec 8) (s : State) :
    ∃ t, loadString r a addr len s = .next t := memReadThen_completes _ _ _ _

theorem signWith_completes (held : SignOperands) (d z : Int) (k : Nat) (s : State) :
    ∃ t, signWith held d z k s = .next t := by
  unfold signWith
  split
  · split
    · exact ⟨_, rfl⟩
    · exact finish_completes _
  · exact finish_completes _

theorem execSign_completes (a b c : BReg) (lows : Bool) (s : State) : ∃ t, execSign a b c lows s = .next t := by
  unfold execSign
  split
  · exact ⟨_, rfl⟩
  · split
    · exact signWith_completes _ _ _ _ _
    · exact ⟨_, rfl⟩

/-- Every instruction ends in a next state (60_exceptions.md R134). -/
theorem exec_completes (i : Instr) (s : State) : ∃ t, exec i s = .next t := by
  cases i with
  | nop | halt | jmp | br | pinf | pgen => exact ⟨_, rfl⟩
  | ldbe | ldle | digz =>
    rw [exec]
    exact memReadThen_completes _ _ _ _
  | ldhex | lddec => exact loadString_completes _ _ _ _ _
  | sign => exact execSign_completes _ _ _ _ _
  | _ => exact finish_completes _

/-! ## Turns -/

theorem runStep_completes (s : State) : ∃ t, runStep s = .next t := by
  unfold runStep
  split
  · exact ⟨_, rfl⟩
  · split
    · exact ⟨_, rfl⟩
    · exact exec_completes _ _

theorem engineStep_completes (s : State) : ∃ t, engineStep s = .next t := by
  unfold engineStep
  split
  · exact ⟨_, rfl⟩
  · split
    · exact ⟨_, rfl⟩
    · exact runStep_completes s
    · split
      · exact exec_completes _ _
      · exact ⟨_, rfl⟩

theorem step_of_nil (h : s.inputs = []) : step s = engineStep s := by
  rw [step, h]

theorem step_of_cons {turn : Turn} {rest : List Turn} (h : s.inputs = turn :: rest) :
    step s = takeTurn turn s.advance := by
  rw [State.advance_of_cons h, step, h]

theorem takeTurn_read (offset : BitVec 18) (width : AccessWidth) (s : State) :
    takeTurn (.read offset width) s = hostAccess offset width fun o => s.hostRead o := rfl

theorem takeTurn_write (offset : BitVec 18) (width : AccessWidth) (u : Word) (s : State) :
    takeTurn (.write offset width u) s = hostAccess offset width fun o => s.hostWrite o u := rfl

/-- A host access of another form than R52's is refused. -/
theorem hostAccess_refused {offset : BitVec 18} {width : AccessWidth}
    (h : ¬ (width = .word ∧ offset.toNat % 4 = 0)) (effect : Nat → State) :
    hostAccess offset width effect = .refused .hostAccessOutsideInterface :=
  if_neg (by simpa [wordAccess] using h)

theorem step_refused (h : AccessOutsideInterface s) : step s = .refused .hostAccessOutsideInterface := by
  obtain ⟨offset, width, rest, hin | ⟨u, hin⟩, hform⟩ := h
  · rw [step_of_cons hin, takeTurn_read, hostAccess_refused hform]
  · rw [step_of_cons hin, takeTurn_write, hostAccess_refused hform]

theorem step_completes (h : ¬ AccessOutsideInterface s) : ∃ t, step s = .next t := by
  cases hin : s.inputs with
  | nil =>
    rw [step_of_nil hin]
    exact engineStep_completes s
  | cons turn rest =>
    rw [step_of_cons hin]
    cases turn with
    | engine => exact engineStep_completes _
    | read offset width =>
      obtain ⟨hw, ho⟩ := not_not.1 fun hform => h ⟨offset, width, rest, .inl hin, hform⟩
      rw [takeTurn_read]
      exact ⟨_, hostAccess_eq_next.2 ⟨hw, ho, rfl⟩⟩
    | write offset width u =>
      obtain ⟨hw, ho⟩ := not_not.1 fun hform => h ⟨offset, width, rest, .inr ⟨u, hin⟩, hform⟩
      rw [takeTurn_write]
      exact ⟨_, hostAccess_eq_next.2 ⟨hw, ho, rfl⟩⟩
    | assertReset | releaseReset => exact ⟨_, rfl⟩

end Answers

/-- Settles O37, by what a host access outside the interface does and what every other turn does. -/
theorem everyStepEnds : Obligations.EveryStepEnds := by
  unfold Obligations.EveryStepEnds
  exact ⟨exec_completes, fun s => ⟨step_refused, step_completes⟩⟩

/-- Settles O56: NONCE_REQ is the engine's wait. -/
theorem interruptLine : Obligations.InterruptLine := by
  unfold Obligations.InterruptLine
  intro s
  rw [State.irq, ← nonceReq_iff]
  simp only [Bool.or_eq_true, Bool.and_eq_true, or_assoc]

end Sys2Proof.Machine
end

section
/-! SUPPORT. O38, 60_exceptions.md R132, R134: an instruction is a list of checks and then its writes, so the errors it
may raise are those of its rule's checks, and each is raised before any write. -/

namespace Sys2Proof.Machine

/-- How an instruction may end: it raises no error, or it leaves its error entry (R134) with a code it may raise
(R132), only draws used or, for the one error that follows a consumption, the nonce consumed. -/
inductive EndsPrecisely (i : Instr) (s : State) : Prop where
  /-- No error. -/
  | completes (t : State) (h : exec i s = .next t) (ht : t.err = s.err)
  /-- An error, after k draws. -/
  | stops (code : BitVec 8) (k : Nat) (h : exec i s = .next (stopped code (drew k s)))
      (hc : (errorsOf i).contains code = true)
  /-- NONCE_RANGE of a SIGN (45_ecdsa.md R121, R122). -/
  | nonceRange (a b c : BReg) (lows : Bool) (hi : i = .sign a b c lows) (hn : s.nonceValid = true)
      (h : exec i s = .next (stopped 0x0B (consumed s)))

section Rules
variable {i : Instr} {s : State}

/-- One check of a rule: the instruction stops with the check's error, or goes on. -/
theorem EndsPrecisely.check (p : Prop) {code : BitVec 8} (hfail : ¬ p → exec i s = .next (stopped code s))
    (hok : p → EndsPrecisely i s) (hc : (errorsOf i).contains code = true := by rfl) : EndsPrecisely i s := by
  by_cases hp : p
  · exact hok hp
  · exact .stops code 0 (hfail hp) hc

/-! ## The sequencer and BigInt arithmetic -/

theorem mov_endsPrecisely (hL : s.build.Legal) (hfit : RegistersFit s) (a b : BReg) :
    EndsPrecisely (.mov a b) s := by
  obtain ⟨huninit, hok, -⟩ := movesAndConstants a b s hL hfit
  exact .check (s.vb[b] = true) (fun hv => huninit (Bool.eq_false_iff.2 hv)) fun hv => .completes _ (hok hv) rfl

theorem addSubMul_endsPrecisely (a b c : BReg) {iv : Instr × Int}
    (hiv : iv ∈ [(Instr.add a b c, s.b[b] + s.b[c]), (.sub a b c, s.b[b] - s.b[c]), (.mul a b c, s.b[b] * s.b[c])]) :
    EndsPrecisely iv.1 s := by
  have hcodes : errorsOf iv.1 = [0x03, 0x05] := by
    simp only [List.mem_cons, List.not_mem_nil, or_false] at hiv
    obtain rfl | rfl | rfl := hiv <;> rfl
  obtain ⟨huninit, hover, hok⟩ := addSubMulAreExact a b c s iv hiv
  refine .check (Valid2 s b c) huninit (fun hv => ?_) (hcodes ▸ rfl)
  exact .check (iv.2.natAbs < 2 ^ s.build.maxBits) (fun h => hover hv (not_lt.1 h))
    (fun h => .completes _ (hok hv h) rfl) (hcodes ▸ rfl)

theorem divRem_endsPrecisely (hfit : RegistersFit s) (a b c : BReg) :
    EndsPrecisely (.div a b c) s ∧ EndsPrecisely (.rem a b c) s := by
  obtain ⟨huninit, hzero, hok⟩ := divRemTruncate a b c s hfit
  by_cases hv : Valid2 s b c
  · by_cases h0 : s.b[c] = 0
    · obtain ⟨hdiv, hrem⟩ := hzero hv h0
      exact ⟨.stops 0x11 0 hdiv rfl, .stops 0x11 0 hrem rfl⟩
    · obtain ⟨_, _, -, -, -, hdiv, hrem⟩ := hok hv h0
      exact ⟨.completes _ hdiv rfl, .completes _ hrem rfl⟩
  · obtain ⟨hdiv, hrem⟩ := huninit hv
    exact ⟨.stops 0x03 0 hdiv rfl, .stops 0x03 0 hrem rfl⟩

theorem cmp_endsPrecisely (b c : BReg) : EndsPrecisely (.cmp b c) s := by
  obtain ⟨huninit, hok⟩ := compareOrders b c s
  refine .check (Valid2 s b c) huninit fun hv => ?_
  obtain ⟨_, _, _, -, -, -, -, hcmp⟩ := hok hv
  exact .completes _ hcmp rfl

/-! ## Shifts and bits -/

theorem shifts_endPrecisely (hfit : RegistersFit s) (a b : BReg) (imm : BitVec 16) :
    EndsPrecisely (.shl a b imm) s ∧ EndsPrecisely (.shr a b imm) s := by
  obtain ⟨huninit, hneg, hok⟩ := shiftsScale a b imm s hfit
  cases hv : s.vb[b] with
  | false =>
    obtain ⟨hshl, hshr⟩ := huninit hv
    exact ⟨.stops 0x03 0 hshl rfl, .stops 0x03 0 hshr rfl⟩
  | true =>
    by_cases hx : 0 ≤ s.b[b]
    · obtain ⟨hover, hshl, _, -, -, hshr⟩ := hok hv hx
      exact ⟨.check (s.b[b] * 2 ^ imm.toNat < 2 ^ s.build.maxBits) (fun h => hover (not_lt.1 h))
        fun h => .completes _ (hshl h) rfl, .completes _ hshr rfl⟩
    · obtain ⟨hshl, hshr⟩ := hneg hv (not_le.1 hx)
      exact ⟨.stops 0x07 0 hshl rfl, .stops 0x07 0 hshr rfl⟩

theorem bitlen_endsPrecisely (hfit : RegistersFit s) (a b : BReg) : EndsPrecisely (.bitlen a b) s := by
  obtain ⟨huninit, hneg, hok⟩ := bitlenIsLeast a b s hfit
  refine .check (s.vb[b] = true) (fun hv => huninit (Bool.eq_false_iff.2 hv)) fun hv =>
    .check (0 ≤ s.b[b]) (fun hx => hneg hv (not_le.1 hx)) fun hx => ?_
  obtain ⟨_, -, hbitlen⟩ := hok hv hx
  exact .completes _ hbitlen rfl

theorem bit_endsPrecisely (b c : BReg) : EndsPrecisely (.bit b c) s := by
  obtain ⟨huninit, hneg, hok, -⟩ := bitExtraction b c 0 s
  exact .check (Valid2 s b c) huninit fun hv => .check (0 ≤ s.b[b] ∧ 0 ≤ s.b[c])
    (fun hx => hneg hv ((not_and_or.1 hx).imp not_le.1 not_le.1)) fun hx => .completes _ (hok hv hx.1 hx.2) rfl

theorem biti_endsPrecisely (b : BReg) (imm : BitVec 16) : EndsPrecisely (.biti b imm) s := by
  obtain ⟨-, -, -, huninit, hneg, hok⟩ := bitExtraction b b imm s
  exact .check (s.vb[b] = true) (fun hv => huninit (Bool.eq_false_iff.2 hv)) fun hv =>
    .check (0 ≤ s.b[b]) (fun hx => hneg hv (not_le.1 hx)) fun hx => .completes _ (hok hv hx) rfl

/-! ## Modular arithmetic -/

theorem mod_endsPrecisely (hfit : RegistersFit s) (a b c : BReg) : EndsPrecisely (.mod a b c) s := by
  obtain ⟨huninit, hzero, hneg, hok⟩ := modReduces a b c s hfit
  refine .check (Valid2 s b c) huninit fun hv => .check (s.b[c] ≠ 0) (fun h => hzero hv (not_not.1 h)) fun h0 =>
    .check (0 < s.b[c]) (fun h => hneg hv (lt_of_le_of_ne (not_lt.1 h) h0)) fun hpos => ?_
  obtain ⟨_, _, -, -, -, hmod⟩ := hok hv hpos
  exact .completes _ hmod rfl

theorem modexp_endsPrecisely (hfit : RegistersFit s) (a b c d : BReg) : EndsPrecisely (.modexp a b c d) s := by
  obtain ⟨huninit, hrest⟩ := modexpIsThePower a b c d s hfit
  refine .check (Valid2 s b c ∧ s.vb[d] = true) huninit fun hv => ?_
  obtain ⟨hzero, hneg, hexp, hok⟩ := hrest hv.1 hv.2
  exact .check (s.b[d] ≠ 0) (fun h => hzero (not_not.1 h)) fun h0 =>
    .check (0 < s.b[d]) (fun h => hneg (lt_of_le_of_ne (not_lt.1 h) h0)) fun hpos =>
      .check (0 ≤ s.b[c]) (fun h => hexp hpos (not_le.1 h)) fun he => .completes _ (hok hpos he) rfl

theorem modinv_endsPrecisely (hfit : RegistersFit s) (a b c : BReg) : EndsPrecisely (.modinv a b c) s := by
  obtain ⟨huninit, hzero, hneg, hnone, hok⟩ := modinvIsTheInverse a b c s hfit
  refine .check (Valid2 s b c) huninit fun hv => .check (s.b[c] ≠ 0) (fun h => hzero hv (not_not.1 h)) fun h0 =>
    .check (0 < s.b[c]) (fun h => hneg hv (lt_of_le_of_ne (not_lt.1 h) h0)) fun hpos =>
      .check (Int.gcd (s.b[b] % s.b[c]) s.b[c] = 1) (hnone hv hpos) fun hg => ?_
  obtain ⟨_, -, -, -, -, hmodinv⟩ := hok hv hpos hg
  exact .completes _ hmodinv rfl

/-! ## Loads -/

theorem EndsPrecisely.of_loadsValue {a : BReg} {v k : Nat} (h : LoadsValue i a v s (drew k s))
    (hc : (errorsOf i).contains 0x05 = true) : EndsPrecisely i s := by
  obtain ⟨hover, hok⟩ := h
  by_cases hv : v < 2 ^ s.build.maxBits
  · exact .completes _ (hok hv) rfl
  · exact .stops 0x05 k (hover (not_lt.1 hv)) hc

theorem EndsPrecisely.of_loadsString {r : Radix} {a : BReg} {str : List Byte} {k : Nat}
    (h : LoadsString r i a str s (drew k s)) (hc : errorsOf i = [0x04, 0x10, 0x05]) : EndsPrecisely i s := by
  obtain ⟨hparse, hvalue⟩ := h
  by_cases hd : ∃ v, Denotes r str v
  · obtain ⟨v, hd⟩ := hd
    obtain ⟨hover, hok⟩ := hvalue v hd
    by_cases hv : v.natAbs < 2 ^ s.build.maxBits
    · exact .completes _ (hok hv) rfl
    · exact .stops 0x05 k (hover (not_lt.1 hv)) (hc ▸ rfl)
  · exact .stops 0x10 k (hparse (not_exists.1 hd)) (hc ▸ rfl)

theorem byteLoads_endPrecisely (a : BReg) (addr : BitVec 12) (len : BitVec 8) :
    EndsPrecisely (.ldbe a addr len) s ∧ EndsPrecisely (.ldle a addr len) s := by
  obtain ⟨hpast, hin⟩ := byteLoads a addr len s
  by_cases hr : addr.toNat + len.toNat ≤ s.build.dmemBytes
  · obtain ⟨_, -, -, hbe, hle, -⟩ := hin hr
    exact ⟨.of_loadsValue hbe rfl, .of_loadsValue hle rfl⟩
  · obtain ⟨hbe, hle⟩ := hpast (not_le.1 hr)
    exact ⟨.stops 0x04 0 hbe rfl, .stops 0x04 0 hle rfl⟩

theorem stringLoads_endPrecisely (a : BReg) (addr : BitVec 12) (len : BitVec 8) {ri : Radix × Instr}
    (hri : ri ∈ [(Radix.hex, Instr.ldhex a addr len), (.dec, .lddec a addr len)]) : EndsPrecisely ri.2 s := by
  have hcodes : errorsOf ri.2 = [0x04, 0x10, 0x05] := by
    simp only [List.mem_cons, List.not_mem_nil, or_false] at hri
    obtain rfl | rfl := hri <;> rfl
  obtain ⟨hpast, hin⟩ := stringLoads a addr len s ri hri
  refine .check (addr.toNat + len.toNat ≤ s.build.dmemBytes) (fun h => hpast (not_le.1 h)) (fun hr => ?_)
    (hcodes ▸ rfl)
  obtain ⟨-, _, -, -, hloads⟩ := hin hr
  exact .of_loadsString hloads hcodes

theorem digz_endsPrecisely (hL : s.build.Legal) (a : BReg) (addr : BitVec 12) (len : BitVec 8) :
    EndsPrecisely (.digz a addr len) s := by
  obtain ⟨hpast, -⟩ := digestReduction a addr len s _ hL (isBitLength_bitlen _)
  exact .check (addr.toNat + len.toNat ≤ s.build.dmemBytes) (fun h => hpast (not_le.1 h)) fun hr =>
    .completes _ (exec_digz hL hr) rfl

/-! ## Stores -/

theorem isByteLength_bytelen (v : Nat) : IsByteLength v (bytelen v) :=
  ⟨one_le_bytelen v, lt_pow_bytelen v, fun _ => bytelen_le⟩

theorem byteStores_endPrecisely (a : BReg) (addr : BitVec 12) (len : BitVec 8) {iw : Instr × (Nat → Nat)}
    (hiw : iw ∈ [(Instr.stbe a addr len, fun j => storeWidth s.b[a].toNat len - 1 - j),
      (.stle a addr len, fun j => j)]) :
    EndsPrecisely iw.1 s := by
  have hcodes : errorsOf iw.1 = [0x03, 0x07, 0x04, 0x06] := by
    simp only [List.mem_cons, List.not_mem_nil, or_false] at hiw
    obtain rfl | rfl := hiw <;> rfl
  obtain ⟨huninit, hneg, hrest⟩ := byteStores a addr len s (storeWidth s.b[a].toNat len) iw hiw
  refine .check (s.vb[a] = true) (fun hv => huninit (Bool.eq_false_iff.2 hv)) (fun hv => .check (0 ≤ s.b[a])
    (fun hx => hneg hv (not_le.1 hx)) (fun hx => ?_) (hcodes ▸ rfl)) (hcodes ▸ rfl)
  have hmin : len = 0 → IsByteLength s.b[a].toNat (storeWidth s.b[a].toNat len) := by
    rintro rfl
    exact isByteLength_bytelen _
  have hlen : len ≠ 0 → storeWidth s.b[a].toNat len = len.toNat := fun h => storeWidth_eq (absurd · h) fun _ => rfl
  obtain ⟨hpast, hbig, hok⟩ := hrest hv hx hmin hlen
  refine .check (addr.toNat + storeWidth s.b[a].toNat len ≤ s.build.dmemBytes) (fun h => hpast (not_le.1 h)) (fun hr =>
    .check (s.b[a] < 256 ^ storeWidth s.b[a].toNat len) (fun h => hbig hr (not_lt.1 h)) (fun h => ?_)
      (hcodes ▸ rfl)) (hcodes ▸ rfl)
  obtain ⟨_, hstore, -⟩ := hok hr h
  exact .completes _ hstore rfl

theorem stringStores_endPrecisely (a : BReg) (addr : BitVec 12) (len : BitVec 8) {ri : Radix × Instr}
    (hri : ri ∈ [(Radix.hex, Instr.sthex a addr len), (.dec, .stdec a addr len)]) : EndsPrecisely ri.2 s := by
  have hcodes : errorsOf ri.2 = [0x03, 0x04, 0x06] := by
    simp only [List.mem_cons, List.not_mem_nil, or_false] at hri
    obtain rfl | rfl := hri <;> rfl
  obtain ⟨huninit, hpast, hin⟩ := stringStores a addr len s ri hri
  refine .check (s.vb[a] = true) (fun hv => huninit (Bool.eq_false_iff.2 hv)) (fun hv =>
    .check (addr.toNat + len.toNat ≤ s.build.dmemBytes) (fun h => hpast hv (not_le.1 h)) (fun hr => ?_)
      (hcodes ▸ rfl)) (hcodes ▸ rfl)
  obtain ⟨str, -, hlong, hok⟩ := hin hv hr
  refine .check (str.length ≤ len.toNat) (fun h => hlong (not_le.1 h)) (fun h => ?_) (hcodes ▸ rfl)
  obtain ⟨_, hstore, -⟩ := hok h
  exact .completes _ hstore rfl

/-! ## Points -/

theorem pmk_endsPrecisely (a : PReg) (b c : BReg) : EndsPrecisely (.pmk a b c) s := by
  obtain ⟨-, -, huninit, hok, hoff⟩ := pointConstructors a b c s
  exact .check (Valid2 s b c) huninit fun hv => .check (IsOnCurve s.build.curve s.b[b] s.b[c]) (hoff hv) fun h =>
    .completes _ (hok hv h) rfl

theorem pointReads_endPrecisely (hL : s.build.Legal) (hP : PointsOnCurve s) (a : BReg) (b : PReg) :
    EndsPrecisely (.px a b) s ∧ EndsPrecisely (.py a b) s ∧ EndsPrecisely (.pisinf b) s := by
  obtain ⟨huninit, hinf, haffine⟩ := pointReads a b s hL hP
  cases hv : s.vp[b] with
  | false =>
    obtain ⟨hpx, hpy, hpisinf⟩ := huninit hv
    exact ⟨.stops 0x03 0 hpx rfl, .stops 0x03 0 hpy rfl, .stops 0x03 0 hpisinf rfl⟩
  | true =>
    cases hpt : s.p[b] with
    | inf =>
      obtain ⟨hpx, hpy, hpisinf⟩ := hinf hv hpt
      exact ⟨.stops 0x09 0 hpx rfl, .stops 0x09 0 hpy rfl, .completes _ hpisinf rfl⟩
    | affine x y =>
      obtain ⟨hpx, hpy, hpisinf⟩ := haffine hv x y hpt
      exact ⟨.completes _ hpx rfl, .completes _ hpy rfl, .completes _ hpisinf rfl⟩

theorem padd_endsPrecisely (a b c : PReg) : EndsPrecisely (.padd a b c) s := by
  obtain ⟨huninit, hok⟩ := exec_padd (s := s) (b := b) (c := c) a
  exact .check (s.vp[b] = true ∧ s.vp[c] = true)
    (fun h => huninit ((not_and_or.1 h).imp Bool.eq_false_iff.2 Bool.eq_false_iff.2)) fun h =>
      .completes _ (hok h.1 h.2) rfl

theorem pdbl_endsPrecisely (a b : PReg) : EndsPrecisely (.pdbl a b) s :=
  .check (s.vp[b] = true) (fun h => finish_readP_invalid (Bool.eq_false_iff.2 h) _) fun h =>
    .completes (wrotePoint a (ecDbl s.build.curve s.p[b]) s) (finish_readP_valid h _) rfl

theorem pmul_endsPrecisely (a : PReg) (b : BReg) (c : PReg) : EndsPrecisely (.pmul a b c) s := by
  obtain ⟨huninit, hneg, hok⟩ := scalarMultiplication.1 a b c s
  exact .check (s.vb[b] = true ∧ s.vp[c] = true)
    (fun h => huninit ((not_and_or.1 h).imp Bool.eq_false_iff.2 Bool.eq_false_iff.2)) fun h =>
      .check (0 ≤ s.b[b]) (fun hx => hneg h.1 h.2 (not_le.1 hx)) fun hx => .completes _ (hok h.1 h.2 hx) rfl

/-! ## ECDSA -/

theorem verify_endsPrecisely (hL : s.build.Legal) (a : PReg) {b : BReg} (c : BReg) (hb : groupFits b 2 = true) :
    EndsPrecisely (.verify a b c) s := by
  have hlt : b.val + 2 ≤ 16 := of_decide_eq_true hb
  obtain ⟨huninit, hok⟩ := verifyFollowsItsRule a b ⟨b.val + 1, by omega⟩ c s hL rfl
  refine .check _ huninit fun ⟨ha, hv, hz⟩ => ?_
  obtain ⟨haccepts, hrejects⟩ := hok ha hv hz
  by_cases h : Accepts s.build.curve s.p[a] s.b[b] s.b[b.val + 1] (s.b[c] % s.build.curve.n)
  · exact .completes _ (haccepts h) rfl
  · exact .completes _ (hrejects h) rfl

theorem recover_endsPrecisely (hL : s.build.Legal) (a : PReg) {b : BReg} (c : BReg) (hb : groupFits b 3 = true) :
    EndsPrecisely (.recover a b c) s := by
  have hlt : b.val + 3 ≤ 16 := of_decide_eq_true hb
  obtain ⟨huninit, hrest⟩ := recoverFollowsItsRule a b ⟨b.val + 1, by omega⟩ ⟨b.val + 2, by omega⟩ c s _ _ _ _ _ hL
    rfl rfl rfl rfl rfl rfl rfl
  refine .check _ huninit fun ⟨hv, hz⟩ => ?_
  obtain ⟨hrange, hrest⟩ := hrest hv hz
  refine .check _ hrange fun ⟨hr, hsg⟩ => ?_
  obtain ⟨hid, hrest⟩ := hrest hr hsg
  refine .check _ hid fun ⟨h0, h3, hx, y, hy⟩ => ?_
  obtain ⟨_, _, -, -, hmismatch, hok⟩ := hrest h0 h3 hx y hy
  exact .check _ hmismatch fun h => .completes _ (hok h) rfl

/-- R = INF asks for another nonce, as r = 0 and s = 0 do (R122). -/
theorem signAttempt_inf {curve : Config.Curve} {d z : Int} {k : Nat} {lows : Bool}
    (hR : ecMul curve k (basePoint curve) = .inf) : signAttempt curve d z k lows = .retry := by
  simp [signAttempt, hR]

theorem sign_endsPrecisely (hL : s.build.Legal) {a : BReg} (b c : BReg) (lows : Bool) (ha : groupFits a 3 = true) :
    EndsPrecisely (.sign a b c lows) s := by
  have hlt : a.val + 3 ≤ 16 := of_decide_eq_true ha
  obtain ⟨huninit, hkey, hwait, hsign⟩ := signFollowsItsRule a b c lows s hL (by omega)
  refine .check _ huninit fun hv => .check _ (hkey hv) fun hd => ?_
  cases hn : s.nonceValid with
  | false => exact .completes _ (hwait hv hd hn) rfl
  | true =>
    obtain ⟨hrange, hattempt⟩ := hsign hv hd hn _ _ rfl rfl
    by_cases hk : InRange s.build.curve (nonceSum s)
    · cases hR : ecMul s.build.curve (nonceSum s) (basePoint s.build.curve) with
      | inf =>
        have hok := signOperands_eq_ok.2 ⟨ha, hv, inScalarRange_iff.2 hd, rfl⟩
        exact .completes (waiting ⟨a, b, c, lows⟩ (consumed s))
          ((exec_sign_nonce hok hn).trans (signWith_retry (u := consumed s) hk (signAttempt_inf hR))) rfl
      | affine x y =>
        obtain ⟨hrzero, hrest⟩ := hattempt hk x y hR
        by_cases hr : x % s.build.curve.n = 0
        · exact .completes _ (hrzero hr) rfl
        · obtain ⟨_, sg, _, -, -, -, hszero, hkept, hnegated⟩ := hrest hr
          by_cases hs : sg = 0
          · exact .completes _ (hszero hs) rfl
          · by_cases hlow : lows = false ∨ 2 * sg ≤ s.build.curve.n
            · exact .completes _ (hkept hs hlow) rfl
            · obtain ⟨hl, hhigh⟩ := not_or.1 hlow
              exact .completes _ (hnegated hs (by simpa using hl) (not_le.1 hhigh)) rfl
    · exact .nonceRange a b c lows rfl hn (hrange hk)

/-! ## Every instruction -/

/-- Every instruction of the encoding ends so in a state that meets the invariants. -/
theorem exec_endsPrecisely (hi : i.wellFormed = true) (h : Inv s) : EndsPrecisely i s := by
  have hL := h.build
  have hfit := h.registers
  cases i with
  | nop | halt | jmp | pinf | pgen => exact .completes _ rfl rfl
  | br cond target =>
    by_cases hcond : ConditionHolds s.flags cond.code.toNat
    · exact .completes _ (exec_br_taken hcond target) rfl
    · exact .completes _ (exec_br_not_taken hcond target) rfl
  | mov a b => exact mov_endsPrecisely hL hfit a b
  | ldi a imm => exact .completes _ (exec_ldi hL imm) rfl
  | ldc a sel => exact .completes _ (exec_ldc hL sel) rfl
  | add a b c => exact addSubMul_endsPrecisely a b c (iv := (.add a b c, _)) (.head _)
  | sub a b c => exact addSubMul_endsPrecisely a b c (iv := (.sub a b c, _)) (.tail _ (.head _))
  | mul a b c => exact addSubMul_endsPrecisely a b c (iv := (.mul a b c, _)) (.tail _ (.tail _ (.head _)))
  | div a b c => exact (divRem_endsPrecisely hfit a b c).1
  | rem a b c => exact (divRem_endsPrecisely hfit a b c).2
  | cmp b c => exact cmp_endsPrecisely b c
  | shl a b imm => exact (shifts_endPrecisely hfit a b imm).1
  | shr a b imm => exact (shifts_endPrecisely hfit a b imm).2
  | bitlen a b => exact bitlen_endsPrecisely hfit a b
  | bit b c => exact bit_endsPrecisely b c
  | biti b imm => exact biti_endsPrecisely b imm
  | mod a b c => exact mod_endsPrecisely hfit a b c
  | modexp a b c d => exact modexp_endsPrecisely hfit a b c d
  | modinv a b c => exact modinv_endsPrecisely hfit a b c
  | ldbe a addr len => exact (byteLoads_endPrecisely a addr len).1
  | ldle a addr len => exact (byteLoads_endPrecisely a addr len).2
  | stbe a addr len => exact byteStores_endPrecisely a addr len (iw := (.stbe a addr len, _)) (.head _)
  | stle a addr len => exact byteStores_endPrecisely a addr len (iw := (.stle a addr len, _)) (.tail _ (.head _))
  | ldhex a addr len => exact stringLoads_endPrecisely a addr len (ri := (.hex, .ldhex a addr len)) (.head _)
  | lddec a addr len => exact stringLoads_endPrecisely a addr len (ri := (.dec, .lddec a addr len)) (.tail _ (.head _))
  | sthex a addr len => exact stringStores_endPrecisely a addr len (ri := (.hex, .sthex a addr len)) (.head _)
  | stdec a addr len => exact stringStores_endPrecisely a addr len (ri := (.dec, .stdec a addr len)) (.tail _ (.head _))
  | digz a addr len => exact digz_endsPrecisely hL a addr len
  | pmk a b c => exact pmk_endsPrecisely a b c
  | px a b => exact (pointReads_endPrecisely hL h.points a b).1
  | py a b => exact (pointReads_endPrecisely hL h.points a b).2.1
  | pisinf b => exact (pointReads_endPrecisely hL h.points 0 b).2.2
  | padd a b c => exact padd_endsPrecisely a b c
  | pdbl a b => exact pdbl_endsPrecisely a b
  | pmul a b c => exact pmul_endsPrecisely a b c
  | sign a b c lows => exact sign_endsPrecisely hL b c lows hi
  | verify a b c => exact verify_endsPrecisely hL a c hi
  | recover a b c => exact recover_endsPrecisely hL a c hi

end Rules

/-- Settles O38, by the two ends with an error that an instruction can have, and the fetch past IMEM of O6. -/
theorem errorsArePrecise : Obligations.ErrorsArePrecise := by
  unfold Obligations.ErrorsArePrecise
  refine ⟨fun i s t hi hs herr h ht => ?_, fun s s' hm hl hr => (stepRunsTheFetchedInstruction s s' hm hl hr).1⟩
  cases exec_endsPrecisely hi hs with
  | completes u hu hkept =>
    obtain rfl := Host.Outcome.next.inj (hu.symm.trans h)
    cases ht.symm.trans (hkept.trans herr)
  | stops code k hu hc =>
    obtain rfl := Host.Outcome.next.inj (hu.symm.trans h)
    exact ⟨List.contains_iff_mem.1 hc, drew k s, rfl, .inl ⟨k, rfl⟩⟩
  | nonceRange a b c lows hsign hn hu =>
    obtain rfl := Host.Outcome.next.inj (hu.symm.trans h)
    subst hsign
    exact ⟨.tail _ (.tail _ (.head _)), consumed s, rfl, .inr ⟨rfl, hn, rfl, a, b, c, lows, rfl⟩⟩

end Sys2Proof.Machine
end

section
/-! SUPPORT. O51, 60_exceptions.md R150: a step that leaves BUSY is the engine's, from an instruction, a fetch or a
waiting SIGN, or the host's ABORT. -/

namespace Sys2Proof.Machine

section Ends
variable {i : Instr} {s s' t : State} {w : Word}

/-! ## An instruction -/

theorem aborted_not_mem_errorsOf (i : Instr) : 0x0C ∉ errorsOf i := by
  cases i <;> simp [errorsOf]

/-- No instruction raises ABORTED (60_exceptions.md R132). -/
theorem ne_aborted_of_mem_errorsOf {e : EngineError} (h : e.code ∈ errorsOf i) : e ≠ .aborted := by
  rintro rfl
  exact aborted_not_mem_errorsOf i h

/-- Where the record is clear, an error entry with another code than ABORTED is an error end. -/
theorem errorEnd_stopped (hd : s.done = false) {e : EngineError} (he : e ≠ .aborted) :
    ErrorEnd (stopped e.code s) := ⟨rfl, rfl, hd, rfl, e, he, rfl⟩

/-- An instruction that ends the run is a HALT, or raised one of its errors. -/
theorem exec_ends (hi : i.wellFormed = true) (h : Inv s) (hb : s.busy = true) (hx : exec i s = .next t)
    (ht : t.busy = false) :
    t.pc = s.pc ∧ ((NormalEnd t ∧ i = .halt) ∨ (ErrorEnd t ∧ t.errCode ∈ errorsOf i)) := by
  obtain ⟨hdone, herr, hcode, -⟩ := h.busy hb
  have hprecise := errorsArePrecise.1 i s t hi h herr hx
  cases exec_effect hx with
  | error k e =>
    obtain ⟨hmem, -⟩ := hprecise rfl
    exact ⟨rfl, .inr ⟨errorEnd_stopped hdone (ne_aborted_of_mem_errorsOf hmem), hmem⟩⟩
  | signError _ _ _ _ _ _ _ e =>
    obtain ⟨hmem, -⟩ := hprecise rfl
    exact ⟨rfl, .inr ⟨errorEnd_stopped hdone (ne_aborted_of_mem_errorsOf hmem), hmem⟩⟩
  | halts hhalt => exact ⟨rfl, .inl ⟨⟨rfl, rfl, herr, hcode⟩, hhalt⟩⟩
  | waits | retries => cases ht
  | _ => cases hb.symm.trans ht

/-! ## A step of the engine -/

theorem Inv.resetLine_of_busy (h : Inv s) (hb : s.busy = true) : s.resetLine = false := by
  refine Bool.eq_false_iff.2 fun hl => ?_
  rw [h.reset hl] at hb
  cases hb

/-- A word that is no instruction is one of R76's. -/
theorem illegalWord_of_error {e : DecodeError} (h : decode w = .error e) : IllegalWord w :=
  (illegalWordsStopTheEngine.1 w).2 fun i hi => by cases h.symm.trans hi

theorem eq_of_decode_halt (h : decode w = .ok .halt) : w = 0x01000000 :=
  (encodeInvertsDecode w .halt h).2.symm

/-- A step in RUN within IMEM executes the word it fetches, or stops on it (O6). -/
theorem step_fetches (hm : EngineMoves s s') (hl : s.resetLine = false) (hr : s.runState = .run)
    (hpc : s.pc.toNat < s.build.imemWords) :
    ∃ w k, MayFetch s w ∧ (∀ i, decode w = .ok i → step s = exec i (drew k s')) ∧
      ∀ e, decode w = .error e → step s = .next (stopped 0x01 (drew k s')) := by
  obtain ⟨hwritten, hdrawn⟩ := (stepRunsTheFetchedInstruction s s' hm hl hr).2 hpc
  cases hread : Cells.read s.imem s.pc.toNat with
  | some w => exact ⟨w, 0, ⟨hr, hpc, fun u hu => Option.some.inj (hu.symm.trans hread)⟩, hwritten w hread⟩
  | none =>
    obtain ⟨w, hw⟩ := hdrawn hread
    exact ⟨w, 1, ⟨hr, hpc, fun u hu => by cases hread.symm.trans hu⟩, hw⟩

/-- A step of the engine that ends the run is a HALT, or raised an error. -/
theorem engine_ends (hm : EngineMoves s s') (h : Inv s) (hb : s.busy = true) (hstep : step s = .next t)
    (ht : t.busy = false) :
    t.pc = s.pc ∧
      ((NormalEnd t ∧ (∃ u, EngineMoves s u) ∧ MayFetch s 0x01000000) ∨
        (ErrorEnd t ∧ (∃ u, EngineMoves s u) ∧ ErrorArises s t.errCode)) := by
  have hl := h.resetLine_of_busy hb
  have hdone : s.done = false := (h.busy hb).1
  obtain rfl := hm.eq_advance
  cases hr : s.runState with
  | idle => cases (busy_eq_false_iff.2 hr).symm.trans hb
  | run =>
    obtain hpc | hpc := Nat.lt_or_ge s.pc.toNat s.build.imemWords
    · obtain ⟨w, k, hfetch, hexec, hillegal⟩ := step_fetches hm hl hr hpc
      cases hd : decode w with
      | ok i =>
        have hx := (hexec i hd).symm.trans hstep
        have hwf := (encodeInvertsDecode w i hd).1
        obtain ⟨hkept, ⟨hend, rfl⟩ | ⟨hend, hmem⟩⟩ := exec_ends hwf (h.advance.useDraws hl k) hb hx ht
        · exact ⟨hkept, .inl ⟨hend, ⟨_, hm⟩, eq_of_decode_halt hd ▸ hfetch⟩⟩
        · exact ⟨hkept, .inr ⟨hend, ⟨_, hm⟩, .inr (.inr (.inl ⟨w, i, hfetch, hd, hmem⟩))⟩⟩
      | error e =>
        obtain rfl := Host.Outcome.next.inj ((hillegal e hd).symm.trans hstep)
        exact ⟨rfl, .inr ⟨errorEnd_stopped (e := .illegalInstruction) hdone (by decide), ⟨_, hm⟩,
          .inr (.inl ⟨w, hfetch, illegalWord_of_error hd, rfl⟩)⟩⟩
    · have hpast := (stepRunsTheFetchedInstruction s _ hm hl hr).1 hpc
      obtain rfl := Host.Outcome.next.inj (hpast.symm.trans hstep)
      exact ⟨rfl, .inr ⟨errorEnd_stopped (e := .pcRange) hdone (by decide), ⟨_, hm⟩, .inl ⟨hr, hpc, rfl⟩⟩⟩
  | nonceWait held =>
    obtain ⟨hwait, hgo⟩ := signWaitsForItsNonce s _ held hm hl hr
    cases hn : s.nonceValid with
    | false =>
      obtain rfl := Host.Outcome.next.inj ((hwait hn).symm.trans hstep)
      cases hb.symm.trans ht
    | true =>
      have hx := (hgo hn).symm.trans hstep
      obtain ⟨hkept, ⟨-, hhalt⟩ | ⟨hend, hmem⟩⟩ :=
        exec_ends (i := .sign held.a held.b held.c held.lows) (h.held held hr) (h.advance.resume hl hb) rfl hx ht
      · cases hhalt
      · exact ⟨hkept, .inr ⟨hend, ⟨_, hm⟩, .inr (.inr (.inr ⟨held, hr, hn, hmem⟩))⟩⟩

/-! ## A host write -/

/-- A host write that ends the run is an ABORT (60_exceptions.md R138). -/
theorem HostWrite.ends {offset : Nat} {u : Word} (hw : HostWrite offset u s t) (h : Inv s) (hb : s.busy = true)
    (ht : t.busy = false) : t.pc = s.pc ∧ AbortedEnd t ∧ offset = 0x10 ∧ u.getLsbD 1 = true := by
  cases hw with
  | abort ho hu => exact ⟨rfl, ⟨rfl, rfl, (h.busy hb).1, rfl, rfl⟩, ho, hu⟩
  | start => cases ht
  | _ => cases hb.symm.trans ht

end Ends

/-- Settles O51, by the turns: only the engine, a write of CTRL and reset can end a run. -/
theorem runsEndInOneOfThreeWays : Obligations.RunsEndInOneOfThreeWays := by
  unfold Obligations.RunsEndInOneOfThreeWays
  intro s t h hb hstep ht hreset
  cases hin : s.inputs with
  | nil => exact (engine_ends (.inl ⟨hin, rfl⟩) h hb hstep ht).imp_right (.imp_right .inl)
  | cons turn rest =>
    cases turn with
    | engine => exact (engine_ends (.inr ⟨rest, hin, rfl⟩) h hb hstep ht).imp_right (.imp_right .inl)
    | read offset width =>
      rw [step_of_cons hin, takeTurn_read] at hstep
      obtain ⟨-, -, rfl⟩ := hostAccess_eq_next.1 hstep
      cases hb.symm.trans ht
    | write offset width u =>
      rw [step_of_cons hin, takeTurn_write] at hstep
      obtain ⟨rfl, -, rfl⟩ := hostAccess_eq_next.1 hstep
      obtain ⟨hpc, hend, ho, hu⟩ := (hostWrite_effect offset.toNat u s.advance).ends h.advance hb ht
      obtain rfl : offset = 0x10 := BitVec.eq_of_toNat_eq ho
      exact ⟨hpc, .inr (.inr ⟨hend, u, rest, rfl, hu⟩)⟩
    | assertReset => exact absurd hin (hreset rest)
    | releaseReset =>
      rw [step_of_cons hin] at hstep
      obtain rfl := Host.Outcome.next.inj hstep
      cases hb.symm.trans ht

end Sys2Proof.Machine
end
